-- ==== Sys2Proof/Word.lean ====
section
/-! DEFINITION. The machine's words (00_scope.md R5, R6): bit patterns of the block's fixed widths. -/

namespace Sys2Proof

/-- A 32-bit pattern: a general register, a control register, a command word (`XLEN`, R5). -/
abbrev Word := BitVec 32

/-- A byte of one of the memory spaces (20_memory.md R40). -/
abbrev Byte := BitVec 8

end Sys2Proof
end

