-- ==== Sys2Proof/Syntax.lean ====
section
/-! DEFINITION. The 32 commands of Z8NIR-C1 (30_encoding.md R65), one constructor a row of
spec/opcode_table.json, and the source lines an assembler writes them as (R70). -/

namespace Sys2Proof

/-- A general register number, 0 to 15; all 16 values are valid (R64). -/
abbrev Reg := BitVec 4

/-- A button slot number, 0 to 63; exactly six bits, so an out-of-range slot cannot be written (R64). -/
abbrev Slot := BitVec 6

/-- A screen-palette index, 0 to 15 (R64). -/
abbrev PalIdx := BitVec 4

/-- A screen-palette entry, the 4-bit colour index of 10_state.md R28. -/
abbrev ColIdx := BitVec 4

/-- The commands, in the order of the opcode map, operands in the order of R70. -/
inductive Instr where
  | nop
  | lih (rd : Reg) (imm : BitVec 16)
  | lil (rd : Reg) (imm : BitVec 16)
  | mov (rd ra : Reg)
  | csrr (rd : Reg) (csr : BitVec 16)
  | csrw (csr : BitVec 16) (ra : Reg)
  | f2x (rd : Reg)
  | x2f (ra : Reg)
  | fclamp
  | sgn (rd ra : Reg)
  | sqrt (rd ra : Reg)
  | band (rd ra rb : Reg)
  | bor (rd ra rb : Reg)
  | bxor (rd ra rb : Reg)
  | bnot (rd ra : Reg)
  | shl (rd ra rb : Reg)
  | shr (rd ra rb : Reg)
  | cos (rd ra : Reg)
  | sin (rd ra : Reg)
  | atan2 (rd ra rb : Reg)
  | bset (slot : Slot) (v : Bool)
  | lupd
  | btn (rd : Reg) (slot : Slot)
  | btnp (rd : Reg) (slot : Slot)
  | btnm (rd : Reg)
  | btnpm (rd : Reg)
  | held (rd : Reg) (slot : Slot)
  | spalw (idx : PalIdx) (val : ColIdx)
  | spalr (rd : Reg) (idx : PalIdx)
  | palrst
  | rtrue
  | rtext (p : Bool)
deriving DecidableEq, Repr

/-- The mnemonics of R65. -/
inductive Op where
  | nop | lih | lil | mov | csrr | csrw | f2x | x2f | fclamp | sgn | sqrt | band | bor | bxor | bnot
  | shl | shr | cos | sin | atan2 | bset | lupd | btn | btnp | btnm | btnpm | held | spalw | spalr
  | palrst | rtrue | rtext
deriving DecidableEq, Repr

/-- What an operand of a source line stands for (R61, R64). -/
inductive OperandKind where
  | reg | imm16 | csr | slot | flag | palIdx | palVal
deriving DecidableEq, Repr

/-- The operands of each mnemonic in the written order (R65, R70). -/
def Op.signature : Op → List OperandKind
  | .nop | .fclamp | .lupd | .palrst | .rtrue => []
  | .lih | .lil => [.reg, .imm16]
  | .csrr => [.reg, .csr]
  | .csrw => [.csr, .reg]
  | .f2x | .x2f | .btnm | .btnpm => [.reg]
  | .mov | .sgn | .sqrt | .bnot | .cos | .sin => [.reg, .reg]
  | .band | .bor | .bxor | .shl | .shr | .atan2 => [.reg, .reg, .reg]
  | .bset => [.slot, .flag]
  | .btn | .btnp | .held => [.reg, .slot]
  | .spalw => [.palIdx, .palVal]
  | .spalr => [.reg, .palIdx]
  | .rtext => [.flag]

/-- One command as written: a mnemonic and operand numbers nobody has checked yet (R70). -/
structure Line where
  op : Op
  operands : List Nat
deriving DecidableEq, Repr

/-- How a command is written (R70): its mnemonic and its operands as numbers. -/
def Instr.line : Instr → Line
  | .nop => ⟨.nop, []⟩
  | .lih rd imm => ⟨.lih, [rd.toNat, imm.toNat]⟩
  | .lil rd imm => ⟨.lil, [rd.toNat, imm.toNat]⟩
  | .mov rd ra => ⟨.mov, [rd.toNat, ra.toNat]⟩
  | .csrr rd csr => ⟨.csrr, [rd.toNat, csr.toNat]⟩
  | .csrw csr ra => ⟨.csrw, [csr.toNat, ra.toNat]⟩
  | .f2x rd => ⟨.f2x, [rd.toNat]⟩
  | .x2f ra => ⟨.x2f, [ra.toNat]⟩
  | .fclamp => ⟨.fclamp, []⟩
  | .sgn rd ra => ⟨.sgn, [rd.toNat, ra.toNat]⟩
  | .sqrt rd ra => ⟨.sqrt, [rd.toNat, ra.toNat]⟩
  | .band rd ra rb => ⟨.band, [rd.toNat, ra.toNat, rb.toNat]⟩
  | .bor rd ra rb => ⟨.bor, [rd.toNat, ra.toNat, rb.toNat]⟩
  | .bxor rd ra rb => ⟨.bxor, [rd.toNat, ra.toNat, rb.toNat]⟩
  | .bnot rd ra => ⟨.bnot, [rd.toNat, ra.toNat]⟩
  | .shl rd ra rb => ⟨.shl, [rd.toNat, ra.toNat, rb.toNat]⟩
  | .shr rd ra rb => ⟨.shr, [rd.toNat, ra.toNat, rb.toNat]⟩
  | .cos rd ra => ⟨.cos, [rd.toNat, ra.toNat]⟩
  | .sin rd ra => ⟨.sin, [rd.toNat, ra.toNat]⟩
  | .atan2 rd ra rb => ⟨.atan2, [rd.toNat, ra.toNat, rb.toNat]⟩
  | .bset slot v => ⟨.bset, [slot.toNat, v.toNat]⟩
  | .lupd => ⟨.lupd, []⟩
  | .btn rd slot => ⟨.btn, [rd.toNat, slot.toNat]⟩
  | .btnp rd slot => ⟨.btnp, [rd.toNat, slot.toNat]⟩
  | .btnm rd => ⟨.btnm, [rd.toNat]⟩
  | .btnpm rd => ⟨.btnpm, [rd.toNat]⟩
  | .held rd slot => ⟨.held, [rd.toNat, slot.toNat]⟩
  | .spalw idx val => ⟨.spalw, [idx.toNat, val.toNat]⟩
  | .spalr rd idx => ⟨.spalr, [rd.toNat, idx.toNat]⟩
  | .palrst => ⟨.palrst, []⟩
  | .rtrue => ⟨.rtrue, []⟩
  | .rtext p => ⟨.rtext, [p.toNat]⟩

end Sys2Proof
end

