-- ==== Sys2Proof/Decode.lean ====
section
/-! DEFINITION. Reading and writing command words (30_encoding.md R60 to R68, R72). -/

namespace Sys2Proof

/-! ## Fields (R61) -/

/-- Bits 31:24. -/
def opOf (w : Word) : BitVec 8 := w.extractLsb' 24 8
/-- Bits 23:20. -/
def rdOf (w : Word) : Reg := w.extractLsb' 20 4
/-- Bits 19:16. -/
def raOf (w : Word) : Reg := w.extractLsb' 16 4
/-- Bits 15:12. -/
def rbOf (w : Word) : Reg := w.extractLsb' 12 4
/-- Bits 15:0. -/
def immOf (w : Word) : BitVec 16 := w.extractLsb' 0 16

/-- Why a word or a byte string is no command. -/
inductive Reject where
  /-- the opcode is one of the 224 unassigned values (R67) -/
  | unassignedOp (op : BitVec 8)
  /-- a bit that the format or the immediate layout requires to be zero is 1 (R63) -/
  | mustBeZero (op : BitVec 8)
  /-- fewer than four bytes: a partial word is not a command (20_memory.md R55) -/
  | partialWord (bytes : Nat)
deriving DecidableEq, Repr

/-- A reserved word by R63, unless `ok`. -/
def require (w : Word) (ok : Bool) (i : Instr) : Except Reject Instr :=
  if ok then .ok i else .error (.mustBeZero (opOf w))

/-! ## Formats (R62): what must be zero, and what the fields feed -/

def fmtZ (w : Word) (i : Instr) : Except Reject Instr :=
  require w (rdOf w == 0 && raOf w == 0 && immOf w == 0) i
def fmtD (w : Word) (mk : Reg → Instr) : Except Reject Instr :=
  require w (raOf w == 0 && immOf w == 0) (mk (rdOf w))
def fmtA (w : Word) (mk : Reg → Instr) : Except Reject Instr :=
  require w (rdOf w == 0 && immOf w == 0) (mk (raOf w))
def fmtDA (w : Word) (mk : Reg → Reg → Instr) : Except Reject Instr :=
  require w (immOf w == 0) (mk (rdOf w) (raOf w))
def fmtDAB (w : Word) (mk : Reg → Reg → Reg → Instr) : Except Reject Instr :=
  require w ((immOf w).extractLsb' 0 12 == 0) (mk (rdOf w) (raOf w) (rbOf w))
def fmtDI (w : Word) (mk : Reg → BitVec 16 → Instr) : Except Reject Instr :=
  require w (raOf w == 0) (mk (rdOf w) (immOf w))
def fmtAI (w : Word) (mk : BitVec 16 → Reg → Instr) : Except Reject Instr :=
  require w (rdOf w == 0) (mk (immOf w) (raOf w))

/-- `DI` with a slot: `imm16[15:6]` must be zero (R64). -/
def fmtDSlot (w : Word) (mk : Reg → Slot → Instr) : Except Reject Instr :=
  require w (raOf w == 0 && (immOf w).extractLsb' 6 10 == 0)
    (mk (rdOf w) ((immOf w).extractLsb' 0 6))
/-- `DI` with a palette index: `imm16[15:4]` must be zero (R64). -/
def fmtDIdx (w : Word) (mk : Reg → PalIdx → Instr) : Except Reject Instr :=
  require w (raOf w == 0 && (immOf w).extractLsb' 4 12 == 0)
    (mk (rdOf w) ((immOf w).extractLsb' 0 4))
/-- `I` of `BSET`: `imm16[7:6]` and `imm16[15:9]` must be zero (R64). -/
def fmtSlotFlag (w : Word) (mk : Slot → Bool → Instr) : Except Reject Instr :=
  require w (rdOf w == 0 && raOf w == 0 && (immOf w).extractLsb' 6 2 == 0
      && (immOf w).extractLsb' 9 7 == 0)
    (mk ((immOf w).extractLsb' 0 6) ((immOf w).getLsbD 8))
/-- `I` of `SPALW`: `imm16[7:4]` and `imm16[15:12]` must be zero (R64). -/
def fmtIdxVal (w : Word) (mk : PalIdx → ColIdx → Instr) : Except Reject Instr :=
  require w (rdOf w == 0 && raOf w == 0 && (immOf w).extractLsb' 4 4 == 0
      && (immOf w).extractLsb' 12 4 == 0)
    (mk ((immOf w).extractLsb' 0 4) ((immOf w).extractLsb' 8 4))
/-- `I` of `RTEXT`: `imm16[15:1]` must be zero (R64). -/
def fmtFlag (w : Word) (mk : Bool → Instr) : Except Reject Instr :=
  require w (rdOf w == 0 && raOf w == 0 && (immOf w).extractLsb' 1 15 == 0)
    (mk ((immOf w).getLsbD 0))

/-- The opcode map (R65): the command a word is, or why it is reserved (R67). -/
def decode (w : Word) : Except Reject Instr :=
  match (opOf w).toNat with
  | 0x00 => fmtZ w .nop
  | 0x01 => fmtDI w .lih
  | 0x02 => fmtDI w .lil
  | 0x03 => fmtDA w .mov
  | 0x04 => fmtDI w .csrr
  | 0x05 => fmtAI w .csrw
  | 0x10 => fmtD w .f2x
  | 0x11 => fmtA w .x2f
  | 0x12 => fmtZ w .fclamp
  | 0x20 => fmtDA w .sgn
  | 0x21 => fmtDA w .sqrt
  | 0x22 => fmtDAB w .band
  | 0x23 => fmtDAB w .bor
  | 0x24 => fmtDAB w .bxor
  | 0x25 => fmtDA w .bnot
  | 0x26 => fmtDAB w .shl
  | 0x27 => fmtDAB w .shr
  | 0x30 => fmtDA w .cos
  | 0x31 => fmtDA w .sin
  | 0x32 => fmtDAB w .atan2
  | 0x40 => fmtSlotFlag w .bset
  | 0x41 => fmtZ w .lupd
  | 0x42 => fmtDSlot w .btn
  | 0x43 => fmtDSlot w .btnp
  | 0x44 => fmtD w .btnm
  | 0x45 => fmtD w .btnpm
  | 0x46 => fmtDSlot w .held
  | 0x50 => fmtIdxVal w .spalw
  | 0x51 => fmtDIdx w .spalr
  | 0x52 => fmtZ w .palrst
  | 0x53 => fmtZ w .rtrue
  | 0x54 => fmtFlag w .rtext
  | _ => .error (.unassignedOp (opOf w))

/-- A field's value put at bit `at_` of a word whose other bits are zero. -/
def place {n : Nat} (v : BitVec n) (at_ : Nat) : Word := v.setWidth 32 <<< at_

/-! ## Bytes (R72): byte 0 is `w[7:0]`, byte 3 is `w[31:24]` -/

/-- The word whose bytes, lowest address first, are `b0 b1 b2 b3`. -/
def wordOfBytes (b0 b1 b2 b3 : Byte) : Word :=
  place b3 24 ||| place b2 16 ||| place b1 8 ||| place b0 0

/-- The bytes of a word, lowest address first. -/
def bytesOfWord (w : Word) : List Byte :=
  [w.extractLsb' 0 8, w.extractLsb' 8 8, w.extractLsb' 16 8, w.extractLsb' 24 8]

/-- Decoding of any bytes: a command and the bytes after it, or why there is none. -/
def decodeBytes : List Byte → Except Reject (Instr × List Byte)
  | b0 :: b1 :: b2 :: b3 :: rest =>
    match decode (wordOfBytes b0 b1 b2 b3) with
    | .ok i => .ok (i, rest)
    | .error e => .error e
  | bs => .error (.partialWord bs.length)

/-- What the decoder reads from the low `nbits` bits of `w`, laid out as bytes by R72. -/
def decodeTableWord (nbits w : Nat) : Option Instr :=
  match decodeBytes (bytesOfWord (BitVec.ofNat 32 (w % 2 ^ nbits))) with
  | .ok (i, _) => some i
  | .error _ => none

/-! ## Encoding (R61, R62, R64, R65) -/

/-- A word of the register formats. -/
def wordReg (op : BitVec 8) (rd ra rb : Reg) : Word :=
  place op 24 ||| place rd 20 ||| place ra 16 ||| place rb 12
/-- A word of the immediate formats. -/
def wordImm (op : BitVec 8) (rd ra : Reg) (imm : BitVec 16) : Word :=
  place op 24 ||| place rd 20 ||| place ra 16 ||| place imm 0

/-- The word of a command. -/
def encode : Instr → Word
  | .nop => wordReg 0x00 0 0 0
  | .lih rd imm => wordImm 0x01 rd 0 imm
  | .lil rd imm => wordImm 0x02 rd 0 imm
  | .mov rd ra => wordReg 0x03 rd ra 0
  | .csrr rd csr => wordImm 0x04 rd 0 csr
  | .csrw csr ra => wordImm 0x05 0 ra csr
  | .f2x rd => wordReg 0x10 rd 0 0
  | .x2f ra => wordReg 0x11 0 ra 0
  | .fclamp => wordReg 0x12 0 0 0
  | .sgn rd ra => wordReg 0x20 rd ra 0
  | .sqrt rd ra => wordReg 0x21 rd ra 0
  | .band rd ra rb => wordReg 0x22 rd ra rb
  | .bor rd ra rb => wordReg 0x23 rd ra rb
  | .bxor rd ra rb => wordReg 0x24 rd ra rb
  | .bnot rd ra => wordReg 0x25 rd ra 0
  | .shl rd ra rb => wordReg 0x26 rd ra rb
  | .shr rd ra rb => wordReg 0x27 rd ra rb
  | .cos rd ra => wordReg 0x30 rd ra 0
  | .sin rd ra => wordReg 0x31 rd ra 0
  | .atan2 rd ra rb => wordReg 0x32 rd ra rb
  | .bset slot v => place 0x40#8 24 ||| place (BitVec.ofBool v) 8 ||| place slot 0
  | .lupd => wordReg 0x41 0 0 0
  | .btn rd slot => place 0x42#8 24 ||| place rd 20 ||| place slot 0
  | .btnp rd slot => place 0x43#8 24 ||| place rd 20 ||| place slot 0
  | .btnm rd => wordReg 0x44 rd 0 0
  | .btnpm rd => wordReg 0x45 rd 0 0
  | .held rd slot => place 0x46#8 24 ||| place rd 20 ||| place slot 0
  | .spalw idx val => place 0x50#8 24 ||| place val 8 ||| place idx 0
  | .spalr rd idx => place 0x51#8 24 ||| place rd 20 ||| place idx 0
  | .palrst => wordReg 0x52 0 0 0
  | .rtrue => wordReg 0x53 0 0 0
  | .rtext p => place 0x54#8 24 ||| place (BitVec.ofBool p) 0

/-! ## The table of R65, as `match` and `mask` -/

/-- A row of R65: `w` is the row's command exactly when `w &&& mask = pat` (R63). -/
structure OpRow where
  op : Op
  pat : Word
  mask : Word
deriving DecidableEq, Repr

/-- The word falls under the row (R63). -/
def OpRow.covers (r : OpRow) (w : Word) : Bool := w &&& r.mask == r.pat

def opTable : List OpRow := [
  ⟨.nop, 0x00000000, 0xFFFFFFFF⟩, ⟨.lih, 0x01000000, 0xFF0F0000⟩,
  ⟨.lil, 0x02000000, 0xFF0F0000⟩, ⟨.mov, 0x03000000, 0xFF00FFFF⟩,
  ⟨.csrr, 0x04000000, 0xFF0F0000⟩, ⟨.csrw, 0x05000000, 0xFFF00000⟩,
  ⟨.f2x, 0x10000000, 0xFF0FFFFF⟩, ⟨.x2f, 0x11000000, 0xFFF0FFFF⟩,
  ⟨.fclamp, 0x12000000, 0xFFFFFFFF⟩, ⟨.sgn, 0x20000000, 0xFF00FFFF⟩,
  ⟨.sqrt, 0x21000000, 0xFF00FFFF⟩, ⟨.band, 0x22000000, 0xFF000FFF⟩,
  ⟨.bor, 0x23000000, 0xFF000FFF⟩, ⟨.bxor, 0x24000000, 0xFF000FFF⟩,
  ⟨.bnot, 0x25000000, 0xFF00FFFF⟩, ⟨.shl, 0x26000000, 0xFF000FFF⟩,
  ⟨.shr, 0x27000000, 0xFF000FFF⟩, ⟨.cos, 0x30000000, 0xFF00FFFF⟩,
  ⟨.sin, 0x31000000, 0xFF00FFFF⟩, ⟨.atan2, 0x32000000, 0xFF000FFF⟩,
  ⟨.bset, 0x40000000, 0xFFFFFEC0⟩, ⟨.lupd, 0x41000000, 0xFFFFFFFF⟩,
  ⟨.btn, 0x42000000, 0xFF0FFFC0⟩, ⟨.btnp, 0x43000000, 0xFF0FFFC0⟩,
  ⟨.btnm, 0x44000000, 0xFF0FFFFF⟩, ⟨.btnpm, 0x45000000, 0xFF0FFFFF⟩,
  ⟨.held, 0x46000000, 0xFF0FFFC0⟩, ⟨.spalw, 0x50000000, 0xFFFFF0F0⟩,
  ⟨.spalr, 0x51000000, 0xFF0FFFF0⟩, ⟨.palrst, 0x52000000, 0xFFFFFFFF⟩,
  ⟨.rtrue, 0x53000000, 0xFFFFFFFF⟩, ⟨.rtext, 0x54000000, 0xFFFFFFFE⟩]

end Sys2Proof
end

