-- ==== Sys2Proof/Machine/Operands.lean ====
section
/-! DEFINITION. How a command reads the bit patterns it is given and writes its result
(00_scope.md R6, 42_fixed_scalar.md R100 to R102, R109). No state here. -/

namespace Sys2Proof.Machine

/-- A plain boolean result: the integer 1 or 0 (44_input_latch.md R146). -/
def flagWord (b : Bool) : Word := if b then 1 else 0

/-- `s32(v)`: 65536 times the 16.16 value `fx(v)` (R6, 41_fixed_conversion.md R87). -/
def s32 (v : Word) : Int := v.toInt

/-- `wrap32(n)`: the pattern congruent to `n` modulo 2^32 (R6). -/
def wrap32 (n : Int) : Word := BitVec.ofInt 32 n

/-- `wrap16(n)`: the pattern congruent to `n` modulo 2^16 (R6). -/
def wrap16 (n : Int) : BitVec 16 := BitVec.ofInt 16 n

/-- `hi ++ lo` of two half words. -/
def joinHalves (hi lo : BitVec 16) : Word := hi.setWidth 32 <<< 16 ||| lo.setWidth 32

/-- `v[31:16]`. -/
def highHalf (v : Word) : BitVec 16 := v.extractLsb' 16 16

/-- `v[15:0]`. -/
def lowHalf (v : Word) : BitVec 16 := v.extractLsb' 0 16

/-- `hi ++ lo` of two words: `F = FHI ++ FLO` (10_state.md R19). -/
def joinWords (hi lo : Word) : BitVec 64 := hi.setWidth 64 <<< 32 ||| lo.setWidth 64

/-- `b[63:32]`. -/
def highWord (b : BitVec 64) : Word := b.extractLsb' 32 32

/-- `b[31:0]`. -/
def lowWord (b : BitVec 64) : Word := b.extractLsb' 0 32

/-- `tr16(v) = trunc(s32(v) / 65536)`, toward zero (42_fixed_scalar.md R101). -/
def tr16 (v : Word) : Int := (s32 v).tdiv 65536

/-- The 16-bit pattern of `tr16(v)`, on which the bitwise commands work (R101, R105). -/
def bits16 (v : Word) : BitVec 16 := wrap16 (tr16 v)

/-- `pack16` of a result that is already a 16-bit pattern (42_fixed_scalar.md R102). -/
def packBits (r : BitVec 16) : Word := joinHalves r 0

/-- `pack16(r) = wrap16(r) ++ 0x0000` for any integer (R102). -/
def pack16 (r : Int) : Word := packBits (wrap16 r)

/-- `sh16(a, n) = wrap16(floor(a * 2^n))` for a 16-bit signed `a` and any integer count, by the
case table of 42_fixed_scalar.md R109. -/
def sh16 (a n : Int) : BitVec 16 :=
  if 16 ≤ n then 0
  else if 0 ≤ n then wrap16 (a * 2 ^ n.toNat)
  else if -16 < n then wrap16 (a.fdiv (2 ^ (-n).toNat))
  else if 0 ≤ a then 0 else 0xFFFF

end Sys2Proof.Machine
end

