-- ==== Sys2Proof/Config.lean ====
section
/-! DEFINITION. The five OPEN parameters of 00_scope.md R5, as constants nothing in Lean can
evaluate: what is proved holds for every configuration. [log 4] -/

namespace Sys2Proof

/-- The two half-block glyphs (20_memory.md R48). -/
inductive Glyph where
  | upper | lower
deriving DecidableEq, Repr

/-- A token of the text sink (20_memory.md R48). Terminal colours are 8-bit numbers. -/
inductive Token where
  | row (r : Fin 64)
  | fg (c : BitVec 8)
  | bg (c : BitVec 8)
  | glyph (g : Glyph)
deriving DecidableEq, Repr

/-- `SIZE_MEMORY`, the size in bytes of the VM address space (R5, R57). -/
opaque Config.sizeMemory : Nat

/-- `OFFSET_SCREEN`, where the framebuffer starts. R42 tests `0 <= a`, so a negative value is a
configuration too: an integer. -/
opaque Config.offsetScreen : Int

/-- `MASTER[0..15]`, 24-bit colours `R ++ G ++ B` (45_renderer.md R160). -/
opaque Config.master : BitVec 4 → BitVec 24

/-- `TERM16[0..15]`, 8-bit terminal colour numbers (45_renderer.md R160). -/
opaque Config.term16 : BitVec 4 → BitVec 8

/-- `TERM_ENC`, the byte string of each token (20_memory.md R49). -/
opaque Config.termEnc : Token → List Byte

/-- R5's expected constraint: every framebuffer byte is real memory. No rule needs it. -/
def Config.windowInside : Prop :=
  0 ≤ Config.offsetScreen ∧ Config.offsetScreen + 8192 ≤ (Config.sizeMemory : Int)

end Sys2Proof
end

