-- ==== Sys2Proof/Machine/State.lean ====
section
/-! DEFINITION. Everything 10_state.md and 20_memory.md give the machine, as plain data; and the
reset state (10_state.md R31, 70_reset_and_hazards.md R210). -/

namespace Sys2Proof.Machine

/-- A byte-addressed space as the list of its bytes that differ from what an unlisted address
reads as (`Memory.blank`, Machine/Ops.lean), addresses strictly rising (`Memory.wf`). -/
abbrev Memory := List Host.Cell

/-- The seven control registers (10_state.md R14). -/
inductive Csr where
  | status | flo | fhi | dout | ptrx | ptry | ptrb
deriving DecidableEq, Repr

/-- What reaches the block from outside other than a command word, always between commands
(20_memory.md R50, R51). [logs 8, 9] -/
inductive External where
  /-- the reset input is asserted (70_reset_and_hazards.md R210) -/
  | reset
  /-- the owner of the VM address space writes a byte of it (20_memory.md R41, R51) -/
  | vmWrite (addr : Nat) (b : Byte)
  /-- the display sink writes a byte of the snapshot `PREV` (20_memory.md R44) -/
  | prevWrite (i : Fin 8192) (b : Byte)
  /-- the display sink puts a byte into the buffer `PIX` (20_memory.md R45) -/
  | pixWrite (i : Fin 49152) (b : Byte)
deriving DecidableEq, Repr

/-- One thing the host does (70_reset_and_hazards.md R218). -/
inductive HostAction where
  /-- presents a command word at the command port (30_encoding.md R60) -/
  | command (w : Word)
  | external (e : External)
deriving DecidableEq, Repr

/-- The state of the block and of the external memories it touches. -/
structure State where
  /-- general registers `x0` to `x15` (10_state.md R10) -/
  x : Vector Word 16
  /-- `STATUS.UNIMP`; `STATUS[31:1]` is hardwired zero (10_state.md R16) [log 12] -/
  unimp : Bool
  /-- `FLO` (10_state.md R17) -/
  flo : Word
  /-- `FHI` (10_state.md R18) -/
  fhi : Word
  /-- `DOUT`, the data output port (10_state.md R20) -/
  dout : Word
  /-- `PTRX` (10_state.md R21) -/
  ptrx : Word
  /-- `PTRY` (10_state.md R22) -/
  ptry : Word
  /-- `PTRB` (10_state.md R23) -/
  ptrb : Word
  /-- `RAW[0..63]` (10_state.md R26) -/
  raw : Vector Bool 64
  /-- `HELD[0..63]` (10_state.md R27) -/
  held : Vector Word 64
  /-- `SPAL[0..15]` (10_state.md R28) -/
  spal : Vector (BitVec 4) 16
  /-- the VM address space, of which `FB` is a window (20_memory.md R41) -/
  vm : Memory
  /-- `PREV` (20_memory.md R44) -/
  prev : Memory
  /-- `PIX` (20_memory.md R45) -/
  pix : Memory
  /-- the text sink, oldest token first (20_memory.md R47) -/
  sink : List Token
  /-- what the host does next, oldest first; the model's own field [log 2] -/
  port : List HostAction
deriving DecidableEq, Repr

/-- No fault exists: "No command can fault, trap, abort or be refused" (60_exceptions.md R190), so
the type has no constructor and nobody raises one. [log 13] -/
inductive Fault where
deriving DecidableEq, Repr

/-- Why a step is refused. -/
inductive Refusal where
  /-- An instruction the model gives no meaning. Raised by nobody: every arm of `exec` has its
  meaning. Refusing would be safe (nothing could be proved of that run). -/
  | notModelled (mnemonic : String)
deriving DecidableEq, Repr

/-- The identity screen palette (10_state.md R28, R31). -/
def identityPalette : Vector (BitVec 4) 16 :=
  #v[0, 1, 2, 3, 4, 5, 6, 7, 8, 9, 10, 11, 12, 13, 14, 15]

/-- The machine after reset: the table of 10_state.md R31. The external memories and the sink are
not the block's and have no reset value; here they start blank [log 1]. Nothing is presented at
the port [log 2]. -/
def State.reset : State where
  x := Vector.replicate 16 0
  unimp := false
  flo := 0
  fhi := 0
  dout := 0
  ptrx := 0
  ptry := 0
  ptrb := 0
  raw := Vector.replicate 64 false
  held := Vector.replicate 64 0
  spal := identityPalette
  vm := []
  prev := []
  pix := []
  sink := []
  port := []

end Sys2Proof.Machine
end

