-- ==== Sys2Proof/Machine/Flags.lean ====
section
/-! DEFINITION. The block's only flag, the sticky `STATUS.UNIMP` (10_state.md R13, R16). No command
computes a flag from a result: there are no condition codes (R13). -/

namespace Sys2Proof.Machine

/-- `STATUS.UNIMP <- 1`, by a reserved word or an unimplemented control register (R15, R16). -/
def State.setUnimp (s : State) : State := { s with unimp := true }

/-- `STATUS` as read: bit 0 is `UNIMP`, bits 31:1 read as 0 (R16). -/
def statusWord (s : State) : Word := flagWord s.unimp

/-- A write of `STATUS`: `UNIMP <- v[0]`, bits 31:1 ignored (R16). -/
def writeStatus (v : Word) (s : State) : State := { s with unimp := v.getLsbD 0 }

end Sys2Proof.Machine
end

