-- ==== Sys2Proof/Machine/Ops.lean ====
section
/-! DEFINITION. The named operations on registers, control registers, the latch and palette arrays,
the memory spaces and the port. There is no exception to take and none to return from
(60_exceptions.md R190, R194, R195); the one shared action of that kind is `illegal`, which a
reserved word performs. -/

namespace Sys2Proof.Machine

/-! ## General registers (10_state.md R10, R11) -/

/-- `x[r]`. -/
def State.getX (s : State) (r : Reg) : Word := s.x[r.toNat]'r.isLt

/-- `x[r] <- v`. -/
def State.setX (s : State) (r : Reg) (v : Word) : State := { s with x := s.x.set r.toNat v r.isLt }

/-! ## Control registers (10_state.md R14 to R24) -/

/-- The table of R14: the register of a number; `none` for 0x0007 to 0xFFFF (R15). -/
def csrOf (n : BitVec 16) : Option Csr :=
  match n.toNat with
  | 0 => some .status
  | 1 => some .flo
  | 2 => some .fhi
  | 3 => some .dout
  | 4 => some .ptrx
  | 5 => some .ptry
  | 6 => some .ptrb
  | _ => none

/-- Reading a control register has no side effect (R24). -/
def readCsr (c : Csr) (s : State) : Word :=
  match c with
  | .status => statusWord s
  | .flo => s.flo
  | .fhi => s.fhi
  | .dout => s.dout
  | .ptrx => s.ptrx
  | .ptry => s.ptry
  | .ptrb => s.ptrb

/-- A written field reads back what was written, but for `STATUS[31:1]` (R24). -/
def writeCsr (c : Csr) (v : Word) (s : State) : State :=
  match c with
  | .status => writeStatus v s
  | .flo => { s with flo := v }
  | .fhi => { s with fhi := v }
  | .dout => { s with dout := v }
  | .ptrx => { s with ptrx := v }
  | .ptry => { s with ptry := v }
  | .ptrb => { s with ptrb := v }

/-- `F = FHI ++ FLO` (R19). -/
def State.float (s : State) : BitVec 64 := joinWords s.fhi s.flo

/-- `F <- b` writes both halves (R19). -/
def State.setFloat (s : State) (b : BitVec 64) : State :=
  { s with fhi := highWord b, flo := lowWord b }

/-! ## Latch and palette arrays (10_state.md R26 to R28) -/

/-- `RAW[i]`. -/
def State.getRaw (s : State) (i : Slot) : Bool := s.raw[i.toNat]'i.isLt

/-- `RAW[i] <- v`. -/
def State.setRaw (s : State) (i : Slot) (v : Bool) : State :=
  { s with raw := s.raw.set i.toNat v i.isLt }

/-- `HELD[i]`. -/
def State.getHeld (s : State) (i : Slot) : Word := s.held[i.toNat]'i.isLt

/-- `SPAL[i]`, of a palette. -/
def palGet (p : Vector (BitVec 4) 16) (i : PalIdx) : ColIdx := p[i.toNat]'i.isLt

/-- `SPAL[i]`. -/
def State.getSpal (s : State) (i : PalIdx) : ColIdx := palGet s.spal i

/-- `SPAL[i] <- v`. -/
def State.setSpal (s : State) (i : PalIdx) (v : ColIdx) : State :=
  { s with spal := s.spal.set i.toNat v i.isLt }

/-! ## Memory spaces (20_memory.md R40 to R46): single bytes, no alignment, no faults -/

/-- What a byte nothing has written reads as: the neutral value 0x00. [DESIGN CHOICE, log 1] -/
def Memory.blank : Byte := 0

/-- The byte at an address of a space. -/
def Memory.read : Memory → Nat → Byte
  | [], _ => Memory.blank
  | (k, v) :: m, a => if a = k then v else Memory.read m a

/-- Writing one byte, keeping addresses rising and no blank byte listed. -/
def Memory.write : Memory → Nat → Byte → Memory
  | [], a, b => if b = Memory.blank then [] else [(a, b)]
  | (k, v) :: m, a, b =>
    if a < k then (if b = Memory.blank then (k, v) :: m else (a, b) :: (k, v) :: m)
    else if a = k then (if b = Memory.blank then m else (a, b) :: m)
    else (k, v) :: Memory.write m a b

/-- The space whose bytes from address `a` on are the given ones and all others blank. -/
def Memory.ofBytes (a : Nat) : List Byte → Memory
  | [] => []
  | b :: bs => if b = Memory.blank then Memory.ofBytes (a + 1) bs
    else (a, b) :: Memory.ofBytes (a + 1) bs

/-- Addresses from `lo` on, strictly rising, no blank byte listed. -/
def Memory.wfFrom (lo : Nat) : Memory → Bool
  | [] => true
  | (k, v) :: m => decide (lo ≤ k) && decide (v ≠ Memory.blank) && Memory.wfFrom (k + 1) m

/-- The canonical form: equal memories are equal lists. -/
def Memory.wf (m : Memory) : Bool := Memory.wfFrom 0 m

/-- The bounds contract of the VM address space: outside `[0, SIZE_MEMORY)` a read gives zero
(20_memory.md R42). -/
def State.readVm (s : State) (a : Int) : Byte :=
  if 0 ≤ a ∧ a < Config.sizeMemory then Memory.read s.vm a.toNat else 0

/-- `MemRead(FB, i, 1)`: `FB` index `i` is VM address `OFFSET_SCREEN + i` (20_memory.md R41, R42). -/
def State.readFb (s : State) (i : Nat) : Byte := s.readVm (Config.offsetScreen + i)

/-- `MemRead(PREV, i, 1)` (20_memory.md R44). -/
def State.readPrev (s : State) (i : Nat) : Byte := Memory.read s.prev i

/-- `PIXIDX(space, x, y)`: even columns are low nibbles (20_memory.md R43). -/
def pixIdx (space : Nat → Byte) (x y : Nat) : BitVec 4 :=
  let b := space (64 * y + x / 2)
  if x % 2 = 0 then b.extractLsb' 0 4 else b.extractLsb' 4 4

/-- `TextEmit` of several tokens in order (20_memory.md R47). -/
def State.emit (s : State) (ts : List Token) : State := { s with sink := s.sink ++ ts }

/-! ## Reserved words, reset and the outside world -/

/-- `Illegal()`: `STATUS.UNIMP <- 1`, nothing else (30_encoding.md R68). -/
def illegal (s : State) : State := s.setUnimp

/-- The reset input (70_reset_and_hazards.md R210): every piece of block state takes its reset
value; `FB`, `PREV`, `PIX` and the sink are untouched, and the host's plans are its own. -/
def resetBlock (s : State) : State :=
  { State.reset with vm := s.vm, prev := s.prev, pix := s.pix, sink := s.sink, port := s.port }

/-- What an outside agent does between commands (20_memory.md R51). A write outside the VM address
space is a no-op by its bounds contract (R42). -/
def external (e : External) (s : State) : State :=
  match e with
  | .reset => resetBlock s
  | .vmWrite a b => if a < Config.sizeMemory then { s with vm := Memory.write s.vm a b } else s
  | .prevWrite i b => { s with prev := Memory.write s.prev i b }
  | .pixWrite i b => { s with pix := Memory.write s.pix i b }

/-- The host's next action and the state that has taken it from the port (30_encoding.md R60). -/
def nextAction (s : State) : Option (HostAction × State) :=
  match s.port with
  | [] => none
  | a :: rest => some (a, { s with port := rest })

/-- Between commands the block is idle and holds its state (60_exceptions.md R202). -/
def idle (s : State) : State := s

/-- A word presented ahead of whatever else the host has planned. -/
def present (w : Word) (s : State) : State := { s with port := .command w :: s.port }

end Sys2Proof.Machine
end

