-- ==== Sys2Proof/Machine/Conversion.lean ====
section
/-! DEFINITION. `F2X`, `X2F`, `FCLAMP` and the two conversion functions (41_fixed_conversion.md
R90 to R97). The binary64 field layout is general knowledge the spec marks as such (G6). [log 16] -/

namespace Sys2Proof.Machine

/-! ## Fields of `F` (R90) -/

def f64Sign (f : BitVec 64) : Bool := f.getLsbD 63
def f64Exp (f : BitVec 64) : Nat := (f.extractLsb' 52 11).toNat
def f64Frac (f : BitVec 64) : Nat := (f.extractLsb' 0 52).toNat

/-- The integer significand `M` of R91. -/
def f64Significand (f : BitVec 64) : Nat :=
  if f64Exp f = 0 then f64Frac f else 2 ^ 52 + f64Frac f

/-- The exponent `E` of R91: a finite `F` is `(-1)^sg * M * 2^E`. -/
def f64Exponent (f : BitVec 64) : Int := if f64Exp f = 0 then -1074 else f64Exp f - 1075

/-- The integer nearest to `m * 2^k`, a tie going up (R91, 00_scope.md R6). Below `k = -64` a
significand (under 2^53) is far below one half and gives 0 (R97). -/
def roundScaled (m : Nat) (k : Int) : Nat :=
  if 0 ≤ k then m * 2 ^ k.toNat
  else if k < -64 then 0
  else
    let d := 2 ^ (-k).toNat
    if d ≤ 2 * (m % d) then m / d + 1 else m / d

/-- `to_fixed(F)` (R91): NaN and the infinities saturate, every finite value is rounded to nearest
and wraps modulo 2^32. -/
def toFixed (f : BitVec 64) : Word :=
  if f64Exp f = 2047 then
    if f64Frac f ≠ 0 then 0x7FFFFFFF else if f64Sign f then 0x80000000 else 0x7FFFFFFF
  else
    let n : Int := roundScaled (f64Significand f) (f64Exponent f + 16)
    wrap32 (if f64Sign f then -n else n)

/-- `sg ++ e[10:0] ++ m[51:0]`. -/
def f64Pack (sg : Bool) (e m : Nat) : BitVec 64 :=
  (BitVec.ofBool sg).setWidth 64 <<< 63 ||| (BitVec.ofNat 11 e).setWidth 64 <<< 52
    ||| (BitVec.ofNat 52 m).setWidth 64

/-- `from_fixed(v)` (R92): the exact binary64 image of `s32(v) / 65536`. -/
def fromFixed (v : Word) : BitVec 64 :=
  let n := s32 v
  if n = 0 then 0
  else
    let a := n.natAbs
    let p := a.log2
    f64Pack (decide (n < 0)) (1007 + p) (a * 2 ^ (52 - p) % 2 ^ 52)

/-- R93: `x[rd] <- to_fixed(FHI ++ FLO)`. -/
def execF2x (rd : Reg) (s : State) : Host.Outcome State Fault Refusal :=
  .next (s.setX rd (toFixed s.float))

/-- R94: `F <- from_fixed(x[ra])`. -/
def execX2f (ra : Reg) (s : State) : Host.Outcome State Fault Refusal :=
  .next (s.setFloat (fromFixed (s.getX ra)))

/-- R95: `F <- from_fixed(to_fixed(F))`. -/
def execFclamp (s : State) : Host.Outcome State Fault Refusal :=
  .next (s.setFloat (fromFixed (toFixed s.float)))

end Sys2Proof.Machine
end

