-- ==== Sys2Proof/Machine/DataMovement.lean ====
section
/-! DEFINITION. `NOP`, `LIH`, `LIL`, `MOV`, `CSRR`, `CSRW` (40_data_movement.md R80 to R86). -/

namespace Sys2Proof.Machine

/-- R80: nothing. -/
def execNop (s : State) : Host.Outcome State Fault Refusal := .next s

/-- R81: `x[rd] <- imm16 ++ 0x0000`. -/
def execLih (rd : Reg) (imm : BitVec 16) (s : State) : Host.Outcome State Fault Refusal :=
  .next (s.setX rd (joinHalves imm 0))

/-- R82: `x[rd] <- x[rd][31:16] ++ imm16`. -/
def execLil (rd : Reg) (imm : BitVec 16) (s : State) : Host.Outcome State Fault Refusal :=
  .next (s.setX rd (joinHalves (highHalf (s.getX rd)) imm))

/-- R83: `x[rd] <- x[ra]`. -/
def execMov (rd ra : Reg) (s : State) : Host.Outcome State Fault Refusal :=
  .next (s.setX rd (s.getX ra))

/-- R84; an unimplemented number reads 0 and sets `UNIMP` (10_state.md R15). -/
def execCsrr (rd : Reg) (csr : BitVec 16) (s : State) : Host.Outcome State Fault Refusal :=
  match csrOf csr with
  | some c => .next (s.setX rd (readCsr c s))
  | none => .next (s.setX rd 0).setUnimp

/-- R85; an unimplemented number changes nothing but `UNIMP` (10_state.md R15). -/
def execCsrw (csr : BitVec 16) (ra : Reg) (s : State) : Host.Outcome State Fault Refusal :=
  match csrOf csr with
  | some c => .next (writeCsr c (s.getX ra) s)
  | none => .next s.setUnimp

end Sys2Proof.Machine
end

