-- ==== Sys2Proof/Machine/InputLatch.lean ====
section
/-! DEFINITION. `BSET`, `LUPD`, `BTN`, `BTNP`, `BTNM`, `BTNPM`, `HELD` (44_input_latch.md R140 to
R152). The pointer store of R151 is the control registers `PTRX`, `PTRY`, `PTRB`. -/

namespace Sys2Proof.Machine

/-- `inc(h)`, with the fold-back that keeps the queries exact (R142). -/
def incHeld (h : Word) : Word := if h = 0xFFFFFFFF then 0xFFFFFFFC else h + 1

/-- One slot of the latch update (R143). -/
def latchSlot (r : Bool) (h : Word) : Word := if r then incHeld h else 0

/-- `pressed` of a counter (R144). -/
def pressedCount (h : Word) : Bool := decide (0 < h.toNat)

/-- `pressed_edge` of a counter: a rising edge, then a pulse every 4 ticks above 15 (R145). -/
def edgeCount (h : Word) : Bool := h.toNat == 1 || (decide (15 < h.toNat) && h.toNat % 4 == 0)

/-- `pressed(i)` (R144). -/
def pressed (s : State) (i : Slot) : Bool := pressedCount (s.getHeld i)

/-- `pressed_edge(i)` (R145). -/
def pressedEdge (s : State) (i : Slot) : Bool := edgeCount (s.getHeld i)

/-- The mask of a predicate over slots 0 to 15 (R148): bit `i` for slot `i`, bits 31:16 zero. -/
def slotMask (p : Slot → Bool) : Word :=
  (List.range 16).foldl
    (fun m i => if p (BitVec.ofNat 6 i) then m + BitVec.ofNat 32 (2 ^ i) else m) 0

/-- R141: `RAW[slot] <- v`. -/
def execBset (slot : Slot) (v : Bool) (s : State) : Host.Outcome State Fault Refusal :=
  .next (s.setRaw slot v)

/-- R143: every slot of `HELD` counts on or restarts; `RAW` stays. -/
def execLupd (s : State) : Host.Outcome State Fault Refusal :=
  .next { s with held := Vector.ofFn fun i => latchSlot s.raw[i] s.held[i] }

/-- R146. -/
def execBtn (rd : Reg) (slot : Slot) (s : State) : Host.Outcome State Fault Refusal :=
  .next (s.setX rd (flagWord (pressed s slot)))

/-- R147. -/
def execBtnp (rd : Reg) (slot : Slot) (s : State) : Host.Outcome State Fault Refusal :=
  .next (s.setX rd (flagWord (pressedEdge s slot)))

/-- R148. -/
def execBtnm (rd : Reg) (s : State) : Host.Outcome State Fault Refusal :=
  .next (s.setX rd (slotMask (pressed s)))

/-- R149. -/
def execBtnpm (rd : Reg) (s : State) : Host.Outcome State Fault Refusal :=
  .next (s.setX rd (slotMask (pressedEdge s)))

/-- R150: `x[rd] <- HELD[slot]`. -/
def execHeld (rd : Reg) (slot : Slot) (s : State) : Host.Outcome State Fault Refusal :=
  .next (s.setX rd (s.getHeld slot))

end Sys2Proof.Machine
end

