-- ==== Sys2Proof/Machine/Renderer.lean ====
section
/-! DEFINITION. `SPALW`, `SPALR`, `PALRST`, `RTRUE`, `RTEXT` (45_renderer.md R160 to R170). The two
paths are functions of what R160 and R170 let them read: the colour table, the palette and the
framebuffer bytes. -/

namespace Sys2Proof.Machine

/-! ## True-colour path (R164, R165) -/

/-- `TRUE(n) = MASTER[SPAL[n]]` (R164). -/
def trueColour (master : BitVec 4 → BitVec 24) (p : Vector (BitVec 4) 16) (n : BitVec 4) :
    BitVec 24 := master (palGet p n)

/-- A pixel of `PIX`: red, green, blue (20_memory.md R46). -/
def pixelBytes (c : BitVec 24) : List Byte :=
  [c.extractLsb' 16 8, c.extractLsb' 8 8, c.extractLsb' 0 8]

/-- The two pixels of one framebuffer byte, low nibble first (R165). -/
def bytePixels (master : BitVec 4 → BitVec 24) (p : Vector (BitVec 4) 16) (b : Byte) : List Byte :=
  pixelBytes (trueColour master p (b.extractLsb' 0 4))
    ++ pixelBytes (trueColour master p (b.extractLsb' 4 4))

/-- All 49152 bytes of `PIX`, byte 0 first (R165). -/
def framePixels (master : BitVec 4 → BitVec 24) (p : Vector (BitVec 4) 16) (fb : Nat → Byte) :
    List Byte := (List.range 8192).flatMap fun b => bytePixels master p (fb b)

/-! ## Terminal path (R166 to R169) -/

/-- `(fg, bg, g)` of R167. -/
structure Cell where
  fg : BitVec 8
  bg : BitVec 8
  glyph : Glyph
deriving DecidableEq, Repr

/-- Steps 1 to 3 of the source on the two palette-mapped indices: the greater or equal one is the
foreground, the glyph says which half shows it (R167). -/
def cellOf (term16 : BitVec 4 → BitVec 8) (top bottom : BitVec 4) : Cell :=
  if top.toNat < bottom.toNat then ⟨term16 bottom, term16 top, .lower⟩
  else ⟨term16 top, term16 bottom, .upper⟩

/-- `CELL(x, r)`: framebuffer rows `2r` and `2r + 1` at column `x` (R167). -/
def cellAt (term16 : BitVec 4 → BitVec 8) (p : Vector (BitVec 4) 16) (fb : Nat → Byte) (r x : Nat) :
    Cell :=
  cellOf term16 (palGet p (pixIdx fb x (2 * r))) (palGet p (pixIdx fb x (2 * r + 1)))

/-- The tokens of cells from left to right, `lastfg` and `lastbg` being the colours last emitted:
an escape only where a colour changes (R166, R169). -/
def cellTokens : (lastfg lastbg : Option (BitVec 8)) → List Cell → List Token
  | _, _, [] => []
  | lastfg, lastbg, c :: cs =>
    (if some c.fg = lastfg then [] else [.fg c.fg])
      ++ (if some c.bg = lastbg then [] else [.bg c.bg])
      ++ .glyph c.glyph :: cellTokens (some c.fg) (some c.bg) cs

/-- One emitted text row: both trackers start at none (R166, R169). -/
def rowTokens (term16 : BitVec 4 → BitVec 8) (p : Vector (BitVec 4) 16) (fb : Nat → Byte)
    (r : Fin 64) : List Token :=
  .row r :: cellTokens none none ((List.range 128).map (cellAt term16 p fb r.val))

/-- `ROWSAME(r)`: the 128 raw bytes of framebuffer rows `2r`, `2r + 1` are the snapshot's (R168). -/
def rowSame (fb prev : Nat → Byte) (r : Fin 64) : Bool :=
  (List.range 128).all fun j => fb (128 * r.val + j) == prev (128 * r.val + j)

/-- The whole frame, top to bottom, without the rows to skip (R166). -/
def frameTokens (term16 : BitVec 4 → BitVec 8) (p : Vector (BitVec 4) 16) (fb : Nat → Byte)
    (skip : Fin 64 → Bool) : List Token :=
  (List.finRange 64).flatMap fun r => if skip r then [] else rowTokens term16 p fb r

/-! ## Commands -/

/-- R161: `SPAL[idx] <- val`. -/
def execSpalw (idx : PalIdx) (val : ColIdx) (s : State) : Host.Outcome State Fault Refusal :=
  .next (s.setSpal idx val)

/-- R162: `x[rd] <- zext_4(SPAL[idx])`. -/
def execSpalr (rd : Reg) (idx : PalIdx) (s : State) : Host.Outcome State Fault Refusal :=
  .next (s.setX rd ((s.getSpal idx).setWidth 32))

/-- R163: the identity palette. -/
def execPalrst (s : State) : Host.Outcome State Fault Refusal :=
  .next { s with spal := identityPalette }

/-- R165: every byte of `PIX` takes its final value; nothing else changes (R170). -/
def execRtrue (s : State) : Host.Outcome State Fault Refusal :=
  .next { s with pix := Memory.ofBytes 0 (framePixels Config.master s.spal s.readFb) }

/-- R166: the frame's tokens are appended to the sink; nothing else changes (R170). With `P = 1`
the rows that equal the snapshot are skipped. -/
def execRtext (p : Bool) (s : State) : Host.Outcome State Fault Refusal :=
  .next (s.emit (frameTokens Config.term16 s.spal s.readFb
    fun r => p && rowSame s.readFb s.readPrev r))

end Sys2Proof.Machine
end

