-- ==== Sys2Proof/Machine/Scalar.lean ====
section
/-! DEFINITION. `SGN`, `SQRT`, `BAND`, `BOR`, `BXOR`, `BNOT`, `SHL`, `SHR` (42_fixed_scalar.md
R100 to R112). -/

namespace Sys2Proof.Machine

/-- R103: +1.0 for positive values, -1.0 for all others, zero included. -/
def signFixed (v : Word) : Word := if 0 < s32 v then 0x00010000 else 0xFFFF0000

/-- The integer square root below `2^bits`, one binary digit at a time from the root `r` found so
far: the greatest `r` with `r*r <= n` (R104). -/
def isqrtBits (n : Nat) : Nat → Nat → Nat
  | 0, r => r
  | b + 1, r => isqrtBits n b (if (r + 2 ^ b) * (r + 2 ^ b) ≤ n then r + 2 ^ b else r)

/-- `floor(sqrt(n))` for the 47-bit radicands of R104, whose roots have 24 bits (R112). -/
def isqrt (n : Nat) : Nat := isqrtBits n 24 0

/-- R104: 0 for non-positive values, else the 16.16 value nearest to the real root. -/
def sqrtFixed (v : Word) : Word :=
  if s32 v ≤ 0 then 0
  else
    let n := (s32 v).toNat * 65536
    let r := isqrt n
    BitVec.ofNat 32 (if r < n - r * r then r + 1 else r)

/-- R103. -/
def execSgn (rd ra : Reg) (s : State) : Host.Outcome State Fault Refusal :=
  .next (s.setX rd (signFixed (s.getX ra)))

/-- R104. -/
def execSqrt (rd ra : Reg) (s : State) : Host.Outcome State Fault Refusal :=
  .next (s.setX rd (sqrtFixed (s.getX ra)))

/-- R105. -/
def execBand (rd ra rb : Reg) (s : State) : Host.Outcome State Fault Refusal :=
  .next (s.setX rd (packBits (bits16 (s.getX ra) &&& bits16 (s.getX rb))))

/-- R106. -/
def execBor (rd ra rb : Reg) (s : State) : Host.Outcome State Fault Refusal :=
  .next (s.setX rd (packBits (bits16 (s.getX ra) ||| bits16 (s.getX rb))))

/-- R107. -/
def execBxor (rd ra rb : Reg) (s : State) : Host.Outcome State Fault Refusal :=
  .next (s.setX rd (packBits (bits16 (s.getX ra) ^^^ bits16 (s.getX rb))))

/-- R108. -/
def execBnot (rd ra : Reg) (s : State) : Host.Outcome State Fault Refusal :=
  .next (s.setX rd (packBits (~~~ bits16 (s.getX ra))))

/-- R110. -/
def execShl (rd ra rb : Reg) (s : State) : Host.Outcome State Fault Refusal :=
  .next (s.setX rd (packBits (sh16 (tr16 (s.getX ra)) (tr16 (s.getX rb)))))

/-- R111; the negation of the count is of an unbounded integer. -/
def execShr (rd ra rb : Reg) (s : State) : Host.Outcome State Fault Refusal :=
  .next (s.setX rd (packBits (sh16 (tr16 (s.getX ra)) (-tr16 (s.getX rb)))))

end Sys2Proof.Machine
end

