-- ==== Sys2Proof/Machine/Trig.lean ====
section
/-! DEFINITION. `COS`, `SIN`, `ATAN2` (43_trig.md R120 to R130). The results are the exact real
functions rounded to nearest; the methods here are integer only. [logs 5, 6] -/

namespace Sys2Proof.Machine

/-! ## The Taylor loop of R128 -/

/-- The loop of R128 at scale `2^bits`: `t2` is the square of the angle, `term` the last Taylor
term, `sgn` the sign of the next one, `acc` the sum so far. It ends when a term is 0; `fuel` is an
upper bound on the terms. -/
def sinLoop (bits t2 : Nat) : (fuel k term : Nat) → (sgn acc : Int) → Int
  | 0, _, _, _, acc => acc
  | fuel + 1, k, term, sgn, acc =>
    match term * t2 / 2 ^ bits / (2 * k * (2 * k + 1)) with
    | 0 => acc
    | next + 1 => sinLoop bits t2 fuel (k + 1) (next + 1) (-sgn) (acc + sgn * (next + 1))

/-- The sine of the angle `t / 2^bits` (at most a quarter turn), scaled by `2^bits`. -/
def sinScaled (bits t : Nat) : Int := sinLoop bits (t * t / 2 ^ bits) 40 1 t (-1) t

/-! ## The quarter-wave table and the wave (R121, R122, R128) -/

/-- `PI64 = floor(pi * 2^64)` (R128). -/
def pi64 : Nat := 0x3243F6A8885A308D3

/-- `QSIN[i]` by the generator of R128. [log 6] -/
def qsin (i : Nat) : Nat := ((sinScaled 64 (i * pi64 / 2 ^ 15) + 2 ^ 47) / 2 ^ 48).toNat

/-- `sinq(a)`, the full wave in units of 1/65536 turn (R122). -/
def sinq (a : BitVec 16) : Int :=
  let n := a.toNat
  if n ≤ 16384 then qsin n
  else if n ≤ 32768 then qsin (32768 - n)
  else if n ≤ 49152 then -(qsin (n - 32768) : Int)
  else -(qsin (65536 - n) : Int)

/-- `COS` of a pattern (R123): bits 31:16 are ignored. -/
def cosTurns (v : Word) : Word := wrap32 (sinq (lowHalf v + 16384))

/-- `SIN` of a pattern (R124): the platform's sine is negated. -/
def sinTurns (v : Word) : Word := wrap32 (-sinq (lowHalf v))

/-! ## The arctangent (R125, R126, R129)

In the first octant `65536 * atan(q/p) / (2*pi)` rounds to the number of boundary angles
`(2*k - 1) * pi / 65536` it lies above. `q/p` lies above a boundary exactly when
`p * sin < q * cos` there; the sine and cosine are taken at 128 fraction bits. [log 5] -/

/-- `floor(pi * 2^128)`. -/
def pi128 : Nat := 0x3243F6A8885A308D313198A2E03707344

/-- The sine of `j * pi / 65536`, scaled by `2^128`, for `0 <= j <= 32768`. -/
def sinBoundary (j : Nat) : Int := sinScaled 128 (j * pi128 / 2 ^ 16)

/-- Whether the direction `(p, q)` lies above the boundary between results `k - 1` and `k`. -/
def pastBoundary (p q k : Nat) : Bool :=
  decide (p * sinBoundary (2 * k - 1) < q * sinBoundary (32768 - (2 * k - 1)))

/-- The greatest `k` from `k` on whose boundary is passed, one binary digit at a time. -/
def octantSearch (p q : Nat) : (bits k : Nat) → Nat
  | 0, k => k
  | b + 1, k =>
    octantSearch p q b
      (if k + 2 ^ b ≤ 8192 && pastBoundary p q (k + 2 ^ b) then k + 2 ^ b else k)

/-- The rounded angle of `(p, q)`, `0 <= q <= p`, `0 < p`: 0 to 8192. -/
def octant (p q : Nat) : Nat := octantSearch p q 14 0

/-- The rounded angle of `(a, b)` in the first quadrant, not both 0: 0 to 16384. -/
def quadrant (a b : Nat) : Nat := if b ≤ a then octant a b else 16384 - octant b a

/-- `ATAN_T(X, Y)` (R125): the angle of the point `(X, -Y)` in units of 1/65536 turn. -/
def atanT (X Y : Int) : Nat :=
  if X = 0 ∧ Y = 0 then 49152
  else
    let q := quadrant X.natAbs Y.natAbs
    (if 0 ≤ X then (if Y ≤ 0 then q else 65536 - q)
      else (if Y ≤ 0 then 32768 - q else 32768 + q)) % 65536

/-- R123. -/
def execCos (rd ra : Reg) (s : State) : Host.Outcome State Fault Refusal :=
  .next (s.setX rd (cosTurns (s.getX ra)))

/-- R124. -/
def execSin (rd ra : Reg) (s : State) : Host.Outcome State Fault Refusal :=
  .next (s.setX rd (sinTurns (s.getX ra)))

/-- R126: `x[rd] <- zext_16(ATAN_T(s32(x[ra]), s32(x[rb])))`. -/
def execAtan2 (rd ra rb : Reg) (s : State) : Host.Outcome State Fault Refusal :=
  .next (s.setX rd (BitVec.ofNat 32 (atanT (s32 (s.getX ra)) (s32 (s.getX rb)))))

end Sys2Proof.Machine
end

