-- ==== Sys2Proof/Machine/Dispatch.lean ====
section
/-! DEFINITION. One arm a command: the meaning of each (30_encoding.md R65). -/

namespace Sys2Proof.Machine

def exec (i : Instr) (s : State) : Host.Outcome State Fault Refusal :=
  match i with
  | .nop => Sys2Proof.Machine.execNop s
  | .lih rd imm => Sys2Proof.Machine.execLih rd imm s
  | .lil rd imm => Sys2Proof.Machine.execLil rd imm s
  | .mov rd ra => Sys2Proof.Machine.execMov rd ra s
  | .csrr rd csr => Sys2Proof.Machine.execCsrr rd csr s
  | .csrw csr ra => Sys2Proof.Machine.execCsrw csr ra s
  | .f2x rd => Sys2Proof.Machine.execF2x rd s
  | .x2f ra => Sys2Proof.Machine.execX2f ra s
  | .fclamp => Sys2Proof.Machine.execFclamp s
  | .sgn rd ra => Sys2Proof.Machine.execSgn rd ra s
  | .sqrt rd ra => Sys2Proof.Machine.execSqrt rd ra s
  | .band rd ra rb => Sys2Proof.Machine.execBand rd ra rb s
  | .bor rd ra rb => Sys2Proof.Machine.execBor rd ra rb s
  | .bxor rd ra rb => Sys2Proof.Machine.execBxor rd ra rb s
  | .bnot rd ra => Sys2Proof.Machine.execBnot rd ra s
  | .shl rd ra rb => Sys2Proof.Machine.execShl rd ra rb s
  | .shr rd ra rb => Sys2Proof.Machine.execShr rd ra rb s
  | .cos rd ra => Sys2Proof.Machine.execCos rd ra s
  | .sin rd ra => Sys2Proof.Machine.execSin rd ra s
  | .atan2 rd ra rb => Sys2Proof.Machine.execAtan2 rd ra rb s
  | .bset slot v => Sys2Proof.Machine.execBset slot v s
  | .lupd => Sys2Proof.Machine.execLupd s
  | .btn rd slot => Sys2Proof.Machine.execBtn rd slot s
  | .btnp rd slot => Sys2Proof.Machine.execBtnp rd slot s
  | .btnm rd => Sys2Proof.Machine.execBtnm rd s
  | .btnpm rd => Sys2Proof.Machine.execBtnpm rd s
  | .held rd slot => Sys2Proof.Machine.execHeld rd slot s
  | .spalw idx val => Sys2Proof.Machine.execSpalw idx val s
  | .spalr rd idx => Sys2Proof.Machine.execSpalr rd idx s
  | .palrst => Sys2Proof.Machine.execPalrst s
  | .rtrue => Sys2Proof.Machine.execRtrue s
  | .rtext p => Sys2Proof.Machine.execRtext p s

end Sys2Proof.Machine
end

