-- ==== Sys2Proof/Machine/Step.lean ====
section
/-! DEFINITION. One step of the machine: the next thing the host does. The block has no program
counter and fetches nothing (10_state.md R12, 40_data_movement.md R88); a command word comes from
the port, is decoded and executed whole (30_encoding.md R60, R66). [log 2] -/

namespace Sys2Proof.Machine

/-- One step: the command presented (R66, R68), the outside agent's action, or nothing at all when
the host has nothing more to do (60_exceptions.md R202). -/
def step (s : State) : Host.Outcome State Fault Refusal :=
  match nextAction s with
  | none => .next (idle s)
  | some (.external e, s') => .next (external e s')
  | some (.command w, s') =>
    match decode w with
    | .ok i => exec i s'
    | .error _ => .next (illegal s')

/-- The word of a table row presented so that the very next step executes it: the host's issuing of
one command (70_reset_and_hazards.md R218). -/
def State.withFetchWord (s : State) (nbits w : Nat) : State :=
  present (BitVec.ofNat 32 (w % 2 ^ nbits)) s

end Sys2Proof.Machine
end

