-- ==== Sys2Proof/WellFormed.lean ====
section
/-! DEFINITION. Which source lines are commands: the right number of operands, each fitting its
field (30_encoding.md R64, R70: "An immediate that does not fit its field is an assembly error").
`Instr` itself admits only fitting operands, so every `Instr` is well formed
(Laws/PerInstr.lean); the check refuses lines. -/

namespace Sys2Proof

/-- The first number that does not fit the operand's field (R61, R64). -/
def OperandKind.limit : OperandKind → Nat
  | .reg => 16
  | .imm16 | .csr => 65536
  | .slot => 64
  | .flag => 2
  | .palIdx | .palVal => 16

/-- One operand for each kind, each below its field's limit. -/
def operandsFit : List OperandKind → List Nat → Bool
  | [], [] => true
  | k :: ks, n :: ns => decide (n < k.limit) && operandsFit ks ns
  | _, _ => false

/-- A line is a command exactly when its operands fit its mnemonic's signature. -/
def Line.wellFormed (l : Line) : Bool := operandsFit l.op.signature l.operands

/-- Well-formedness of a command: its written form passes the check. -/
def Instr.wellFormed (i : Instr) : Bool := i.line.wellFormed

end Sys2Proof
end

