-- ==== Sys2Proof/Machine/Assembler.lean ====
section
/-! DEFINITION. What the spec's toolchain makes of source lines and pseudo-instructions
(30_encoding.md R70, R71), and the command lists the host issues. -/

namespace Sys2Proof.Machine

/-- The command of a source line, if its operands fit (R64, R70). -/
def assemble (l : Line) : Option Instr :=
  if l.wellFormed then
    match l.op, l.operands with
    | .nop, [] => some .nop
    | .lih, [rd, n] => some (.lih (.ofNat 4 rd) (.ofNat 16 n))
    | .lil, [rd, n] => some (.lil (.ofNat 4 rd) (.ofNat 16 n))
    | .mov, [rd, ra] => some (.mov (.ofNat 4 rd) (.ofNat 4 ra))
    | .csrr, [rd, n] => some (.csrr (.ofNat 4 rd) (.ofNat 16 n))
    | .csrw, [n, ra] => some (.csrw (.ofNat 16 n) (.ofNat 4 ra))
    | .f2x, [rd] => some (.f2x (.ofNat 4 rd))
    | .x2f, [ra] => some (.x2f (.ofNat 4 ra))
    | .fclamp, [] => some .fclamp
    | .sgn, [rd, ra] => some (.sgn (.ofNat 4 rd) (.ofNat 4 ra))
    | .sqrt, [rd, ra] => some (.sqrt (.ofNat 4 rd) (.ofNat 4 ra))
    | .band, [rd, ra, rb] => some (.band (.ofNat 4 rd) (.ofNat 4 ra) (.ofNat 4 rb))
    | .bor, [rd, ra, rb] => some (.bor (.ofNat 4 rd) (.ofNat 4 ra) (.ofNat 4 rb))
    | .bxor, [rd, ra, rb] => some (.bxor (.ofNat 4 rd) (.ofNat 4 ra) (.ofNat 4 rb))
    | .bnot, [rd, ra] => some (.bnot (.ofNat 4 rd) (.ofNat 4 ra))
    | .shl, [rd, ra, rb] => some (.shl (.ofNat 4 rd) (.ofNat 4 ra) (.ofNat 4 rb))
    | .shr, [rd, ra, rb] => some (.shr (.ofNat 4 rd) (.ofNat 4 ra) (.ofNat 4 rb))
    | .cos, [rd, ra] => some (.cos (.ofNat 4 rd) (.ofNat 4 ra))
    | .sin, [rd, ra] => some (.sin (.ofNat 4 rd) (.ofNat 4 ra))
    | .atan2, [rd, ra, rb] => some (.atan2 (.ofNat 4 rd) (.ofNat 4 ra) (.ofNat 4 rb))
    | .bset, [i, v] => some (.bset (.ofNat 6 i) (v == 1))
    | .lupd, [] => some .lupd
    | .btn, [rd, i] => some (.btn (.ofNat 4 rd) (.ofNat 6 i))
    | .btnp, [rd, i] => some (.btnp (.ofNat 4 rd) (.ofNat 6 i))
    | .btnm, [rd] => some (.btnm (.ofNat 4 rd))
    | .btnpm, [rd] => some (.btnpm (.ofNat 4 rd))
    | .held, [rd, i] => some (.held (.ofNat 4 rd) (.ofNat 6 i))
    | .spalw, [i, v] => some (.spalw (.ofNat 4 i) (.ofNat 4 v))
    | .spalr, [rd, i] => some (.spalr (.ofNat 4 rd) (.ofNat 4 i))
    | .palrst, [] => some .palrst
    | .rtrue, [] => some .rtrue
    | .rtext, [p] => some (.rtext (p == 1))
    | _, _ => none
  else none

/-- The slot written `p<k>.b<j>`: button `j` of player `k` (R70, 44_input_latch.md R140). -/
def slotOf (player button : BitVec 3) : Slot :=
  BitVec.ofNat 6 (8 * player.toNat + button.toNat)

/-! ## The pseudo-instructions of R71 -/

def pseudoLi (rd : Reg) (v : Word) : List Instr := [.lih rd (highHalf v), .lil rd (lowHalf v)]
def pseudoOut (ra : Reg) : List Instr := [.csrw 3 ra]
def pseudoFld (ra rb : Reg) : List Instr := [.csrw 1 ra, .csrw 2 rb]
def pseudoFst (rd re : Reg) : List Instr := [.csrr rd 1, .csrr re 2]
def pseudoSetptr (ra rb rc : Reg) : List Instr := [.csrw 4 ra, .csrw 5 rb, .csrw 6 rc]
def pseudoPress (slot : Slot) : List Instr := [.bset slot true]
def pseudoRelease (slot : Slot) : List Instr := [.bset slot false]

/-- Commands executed one after the other (20_memory.md R50). -/
def execAll : List Instr → State → Host.Outcome State Fault Refusal
  | [], s => .next s
  | i :: is, s =>
    match exec i s with
    | .next t => execAll is t
    | .fault r => .fault r
    | .refused r => .refused r

/-- A command list at the port: what a program of 95_test_vectors.md is (10_state.md R12). -/
def State.withProgram (s : State) (is : List Instr) : State :=
  { s with port := s.port ++ is.map fun i => .command (encode i) }

end Sys2Proof.Machine
end

