-- ==== Sys2Proof/Machine/Terminal.lean ====
section
/-! DEFINITION. The text sink as the terminal sees it (20_memory.md R49): the images of the tokens
under `TERM_ENC`, in order; and the spec's proposed default for that parameter. [log 15] -/

namespace Sys2Proof.Machine

/-- The bytes the terminal receives: `TERM_ENC` of every token of the sink (R49). -/
def State.terminalBytes (s : State) : List Byte := s.sink.flatMap Config.termEnc

/-- An ASCII digit. -/
def asciiDigit (d : Nat) : Byte := BitVec.ofNat 8 (0x30 + d % 10)

/-- `dec(n)` for `n` below 1000: decimal digits in ASCII, no leading zeros (R49). -/
def dec (n : Nat) : List Byte :=
  if n < 10 then [asciiDigit n]
  else if n < 100 then [asciiDigit (n / 10), asciiDigit n]
  else [asciiDigit (n / 100), asciiDigit (n / 10), asciiDigit n]

/-- The proposed default of `TERM_ENC` (R49, G5), for use as an argument; no meaning uses it. -/
def proposedTermEnc : Token → List Byte
  | .row r => [0x1B, 0x5B] ++ dec (r.val + 1) ++ [0x3B, 0x31, 0x48]
  | .fg c => [0x1B, 0x5B, 0x33, 0x38, 0x3B, 0x35, 0x3B] ++ dec c.toNat ++ [0x6D]
  | .bg c => [0x1B, 0x5B, 0x34, 0x38, 0x3B, 0x35, 0x3B] ++ dec c.toNat ++ [0x6D]
  | .glyph .upper => [0xE2, 0x96, 0x80]
  | .glyph .lower => [0xE2, 0x96, 0x84]

end Sys2Proof.Machine
end

