-- ==== Sys2Proof/Safety.lean ====
section
/-! DEFINITION. The words in which claims about the machine are made: what stays the same, the
invariant of every step, the spec's real-valued functions, who may write what, and the host's tick
protocol. -/

namespace Sys2Proof.Machine

/-! ## Frames -/

/-- Every general register is as before. -/
def SameRegs (s t : State) : Prop := ∀ r, t.getX r = s.getX r

/-- Register `rd` holds `v`, every other general register is as before. -/
def OnlyReg (rd : Reg) (v : Word) (s t : State) : Prop :=
  t.getX rd = v ∧ ∀ r, r ≠ rd → t.getX r = s.getX r

/-- Every control register reads as before, `STATUS` included. -/
def SameCsrs (s t : State) : Prop := ∀ c, readCsr c t = readCsr c s

/-- Control register `c` reads `v`, every other control register reads as before. -/
def OnlyCsr (c : Csr) (v : Word) (s t : State) : Prop :=
  readCsr c t = v ∧ ∀ d, d ≠ c → readCsr d t = readCsr d s

def SameRaw (s t : State) : Prop := ∀ i, t.getRaw i = s.getRaw i
def SameHeld (s t : State) : Prop := ∀ i, t.getHeld i = s.getHeld i
def SameSpal (s t : State) : Prop := ∀ i, t.getSpal i = s.getSpal i

/-- Every byte of a space reads as before. -/
def SameBytes (m m' : Memory) : Prop := ∀ a, Memory.read m' a = Memory.read m a

/-- Every byte of the VM address space (`FB` with it), of `PREV` and of `PIX` is as before. -/
def SameMemory (s t : State) : Prop :=
  SameBytes s.vm t.vm ∧ SameBytes s.prev t.prev ∧ SameBytes s.pix t.pix

/-- The text sink holds what it held and the host's plans are as they were. -/
def SameStreams (s t : State) : Prop := t.sink = s.sink ∧ t.port = s.port

/-- Everything but the general and control registers is as before. -/
def SameOutsideRegs (s t : State) : Prop :=
  SameRaw s t ∧ SameHeld s t ∧ SameSpal s t ∧ SameMemory s t ∧ SameStreams s t

/-- The command's whole effect is that general register `rd` holds `v`. -/
def RegEffect (rd : Reg) (v : Word) (s t : State) : Prop :=
  OnlyReg rd v s t ∧ SameCsrs s t ∧ SameOutsideRegs s t

/-- The command's whole effect is that control register `c` reads `v`. -/
def CsrEffect (c : Csr) (v : Word) (s t : State) : Prop :=
  SameRegs s t ∧ OnlyCsr c v s t ∧ SameOutsideRegs s t

/-- The command's whole effect is an access to an unimplemented control register: `UNIMP` is set
(10_state.md R15); what happens to the general registers is said apart. -/
def UnimpEffect (s t : State) : Prop := OnlyCsr .status 1 s t ∧ SameOutsideRegs s t

/-- The command's whole effect is that `F` is `b`: `FHI` holds `b[63:32]` and `FLO` holds `b[31:0]`
(10_state.md R19). -/
def FloatEffect (b : BitVec 64) (s t : State) : Prop :=
  SameRegs s t ∧ t.float = b ∧ t.fhi.toNat = b.toNat / 2 ^ 32 ∧ t.flo.toNat = b.toNat % 2 ^ 32
    ∧ (∀ c, c ≠ .flo → c ≠ .fhi → readCsr c t = readCsr c s) ∧ SameOutsideRegs s t

/-- The word of the command falls under `match` and `mask` and decodes to the command (R63). -/
def EncodedAs (i : Instr) (pat mask : Word) : Prop :=
  encode i &&& mask = pat ∧ decode (encode i) = .ok i

/-! ## The invariant of every step -/

/-- No listed address is `n` or above. -/
def Memory.below (n : Nat) (m : Memory) : Bool := m.all fun c => decide (c.1 < n)

/-- The three spaces are in canonical form and inside their bounds (20_memory.md R40). -/
def State.Inv (s : State) : Prop :=
  (Memory.wf s.vm = true ∧ Memory.below Config.sizeMemory s.vm = true)
    ∧ (Memory.wf s.prev = true ∧ Memory.below 8192 s.prev = true)
    ∧ (Memory.wf s.pix = true ∧ Memory.below 49152 s.pix = true)

/-- The block's own state is the reset state's (10_state.md R31). -/
def BlockAtReset (t : State) : Prop :=
  (∀ r, t.getX r = 0) ∧ (∀ c, readCsr c t = 0) ∧ (∀ i, t.getRaw i = false)
    ∧ (∀ i, t.getHeld i = 0) ∧ (∀ i, t.getSpal i = i)

/-! ## The spec's numbers (00_scope.md R6, 41_fixed_conversion.md R87, R90) -/

/-- `fx(v)`, the 16.16 value of a pattern. -/
def fx (v : Word) : ℚ := s32 v / 65536

/-- `RN(r)`: the nearest integer, a tie away from zero. -/
def RN (r : ℚ) : Int := if 0 ≤ r then ⌊r + 1 / 2⌋ else -⌊-r + 1 / 2⌋

/-- The real value of a finite binary64 pattern, by the classes of R90. -/
def f64Value (f : BitVec 64) : ℚ :=
  (if f64Sign f then -1 else 1)
    * (if f64Exp f = 0 then (f64Frac f : ℚ) * 2 ^ (-1074 : Int)
      else (2 ^ 52 + f64Frac f : ℚ) * 2 ^ ((f64Exp f : Int) - 1075))

/-- Neither an infinity nor a NaN (R90). -/
def f64Finite (f : BitVec 64) : Prop := f64Exp f ≠ 2047

/-! ## Who may write what -/

/-- The general register a command writes (10_state.md R11). -/
def writesReg : Instr → Option Reg
  | .lih rd _ | .lil rd _ | .mov rd _ | .csrr rd _ | .f2x rd | .sgn rd _ | .sqrt rd _
  | .band rd _ _ | .bor rd _ _ | .bxor rd _ _ | .bnot rd _ | .shl rd _ _ | .shr rd _ _
  | .cos rd _ | .sin rd _ | .atan2 rd _ _ | .btn rd _ | .btnp rd _ | .btnm rd | .btnpm rd
  | .held rd _ | .spalr rd _ => some rd
  | .nop | .csrw _ _ | .x2f _ | .fclamp | .bset _ _ | .lupd | .spalw _ _ | .palrst | .rtrue
  | .rtext _ => none

/-- The general registers a command reads (R11). -/
def readsReg : Instr → List Reg
  | .lil rd _ => [rd]
  | .mov _ ra | .sgn _ ra | .sqrt _ ra | .bnot _ ra | .cos _ ra | .sin _ ra | .csrw _ ra
  | .x2f ra => [ra]
  | .band _ ra rb | .bor _ ra rb | .bxor _ ra rb | .shl _ ra rb | .shr _ ra rb
  | .atan2 _ ra rb => [ra, rb]
  | .nop | .lih _ _ | .csrr _ _ | .f2x _ | .fclamp | .bset _ _ | .lupd | .btn _ _ | .btnp _ _
  | .btnm _ | .btnpm _ | .held _ _ | .spalw _ _ | .spalr _ _ | .palrst | .rtrue | .rtext _ => []

/-- Why command `i` from `s` to `t` may change `UNIMP`: it names an unimplemented control register
(10_state.md R15) or is `CSRW STATUS` (R16). -/
def UnimpCause (i : Instr) (s t : State) : Prop :=
  (t.unimp = true ∧ ((∃ rd n, i = .csrr rd n ∧ 7 ≤ n.toNat)
      ∨ ∃ n ra, i = .csrw n ra ∧ 7 ≤ n.toNat))
    ∨ ∃ ra, i = .csrw 0 ra ∧ t.unimp = (s.getX ra).getLsbD 0

/-- What a 32-bit counter shows of the source's unbounded count `n` (44_input_latch.md R142). -/
def foldedCount (n : Nat) : Nat := if n ≤ 0xFFFFFFFF then n else 0xFFFFFFFC + n % 4

/-! ## The renderer, as the spec draws it -/

/-- The six `MemWrite(PIX, …)` of each framebuffer byte, in the order of the pseudocode of
45_renderer.md R165. -/
def rtrueWrites (s : State) : List (Nat × Byte) :=
  (List.range 8192).flatMap fun b =>
    let byte := s.readFb b
    let c0 := Config.master (s.getSpal (byte.extractLsb' 0 4))
    let c1 := Config.master (s.getSpal (byte.extractLsb' 4 4))
    [(6 * b, c0.extractLsb' 16 8), (6 * b + 1, c0.extractLsb' 8 8), (6 * b + 2, c0.extractLsb' 0 8),
      (6 * b + 3, c1.extractLsb' 16 8), (6 * b + 4, c1.extractLsb' 8 8),
      (6 * b + 5, c1.extractLsb' 0 8)]

/-- The palette-mapped index of pixel `(x, y)` of the framebuffer (R167). -/
def shownIndex (s : State) (x y : Nat) : BitVec 4 := s.getSpal (pixIdx s.readFb x y)

/-- The foreground of cell `(x, r)`: `TERM16` of the greater of the two indices (R167). -/
def cellFg (s : State) (r x : Nat) : BitVec 8 :=
  Config.term16 (if (shownIndex s x (2 * r)).toNat < (shownIndex s x (2 * r + 1)).toNat
    then shownIndex s x (2 * r + 1) else shownIndex s x (2 * r))

/-- The background of cell `(x, r)`: `TERM16` of the other index (R167). -/
def cellBg (s : State) (r x : Nat) : BitVec 8 :=
  Config.term16 (if (shownIndex s x (2 * r)).toNat < (shownIndex s x (2 * r + 1)).toNat
    then shownIndex s x (2 * r) else shownIndex s x (2 * r + 1))

/-- The glyph of cell `(x, r)` (R167). -/
def cellGlyph (s : State) (r x : Nat) : Glyph :=
  if (shownIndex s x (2 * r)).toNat < (shownIndex s x (2 * r + 1)).toNat then .lower else .upper

/-- An emitted text row: a colour escape in column 0 and wherever the colour differs from the
previous cell's (R166, R169). -/
def specRow (s : State) (r : Fin 64) : List Token :=
  .row r :: (List.range 128).flatMap fun x =>
    (if x = 0 ∨ cellFg s r x ≠ cellFg s r (x - 1) then [.fg (cellFg s r x)] else [])
      ++ (if x = 0 ∨ cellBg s r x ≠ cellBg s r (x - 1) then [.bg (cellBg s r x)] else [])
      ++ [.glyph (cellGlyph s r x)]

/-- Framebuffer rows `2r` and `2r + 1` are byte-identical to the snapshot's (R168). -/
def RowUnchanged (s : State) (r : Fin 64) : Prop :=
  ∀ j, j < 128 → s.readFb (128 * r + j) = s.readPrev (128 * r + j)

def isRowToken : Token → Bool
  | .row _ => true
  | _ => false

def isGlyphToken : Token → Bool
  | .glyph _ => true
  | _ => false

/-! ## Runs and the host's protocol -/

/-- The values `DOUT` took: its value after each `CSRW DOUT` of the next `n` steps
(70_reset_and_hazards.md R219). -/
def doutTrace : Nat → State → List Word
  | 0, _ => []
  | n + 1, s =>
    match step s with
    | .next t =>
      match s.port with
      | .command w :: _ =>
        match decode w with
        | .ok (.csrw 3 _) => t.dout :: doutTrace n t
        | _ => doutTrace n t
      | _ => doutTrace n t
    | _ => []

/-- A render command may stand at any command boundary (70_reset_and_hazards.md R214); before the
`LUPD` of a tick too, read as "between ticks" [DESIGN CHOICE, log 22]. -/
def isRender : Instr → Bool
  | .rtrue | .rtext _ => true
  | _ => false

/-- Phase 3 of a tick: no `BSET` and no `LUPD` (R214). Every other command is accepted, pointer writes
(`CSRW` of 4 to 6, `SETPTR`) among them [DESIGN CHOICE, log 22]. -/
def inQueryPhase : Instr → Bool
  | .bset _ _ | .lupd => false
  | _ => true

/-- The tick protocol of R214 on the commands of one tick: the input source's `BSET`s, exactly one
`LUPD`, then commands that are neither; render commands anywhere. A host duty, not enforced.

R214 names only `BSET`s before the `LUPD` and only pointer reads after it, and R218 gives `SETPTR` to
the input source, so where the pointer writes stand is open. Here they are refused before the `LUPD`
and accepted after it, like every other command R214 does not name [DESIGN CHOICE, log 22]. -/
def followsTickProtocol (tick : List Instr) : Bool :=
  match (tick.filter fun i => !isRender i).dropWhile fun i => match i with
      | .bset _ _ => true
      | _ => false with
  | .lupd :: rest => rest.all inQueryPhase
  | _ => false

end Sys2Proof.Machine
end

