-- ==== Sys2Proof/Certificates/Slice0/Obligations.lean ====
section
/-! DEFINITION. The statements for the provers, family by family. -/

open Sys2Proof Sys2Proof.Machine

/-! ## Encoding -/

/-- Decoding the word, or the four bytes, of any command gives the command back: no operand bit is
dropped (30_encoding.md R61, R62, R64, R65). Every `Instr` is well formed. -/
def Obligations.DecodeEncodeEveryCommand : Prop :=
  ∀ i : Instr, decode (encode i) = .ok i
    ∧ ∀ rest, decodeBytes (bytesOfWord (encode i) ++ rest) = .ok (i, rest)

/-- A word that decodes is the encoding of what it decodes to: each command has one word
(30_encoding.md R62, R63, R66). -/
def Obligations.EncodeDecodeEveryWord : Prop :=
  ∀ w i, decode w = .ok i → encode i = w

/-- A source line is a command exactly when its operands fit their fields (30_encoding.md R64, R70). -/
def Obligations.AssemblerAcceptsExactlyFittingLines : Prop :=
  (∀ l : Line, l.wellFormed = true ↔ ∃ i, assemble l = some i)
    ∧ (∀ l i, assemble l = some i → i.line = l) ∧ ∀ i : Instr, assemble i.line = some i

/-- The test `(w & mask) = match` over the table of R65 is the whole of decoding: a word is a command
exactly when a row covers it, at most one row does, and the command is that row's
(30_encoding.md R63, R66, R67). -/
def Obligations.TableRowsDecideDecoding : Prop :=
  ∀ w : Word,
    ((∃ i, decode w = .ok i) ↔ ∃ row ∈ opTable, row.covers w = true)
      ∧ (∀ r₁ ∈ opTable, ∀ r₂ ∈ opTable, r₁.covers w = true → r₂.covers w = true → r₁ = r₂)
      ∧ ∀ i, decode w = .ok i → ∀ row ∈ opTable, row.covers w = true → i.line.op = row.op

/-- Words written out from the spec's encodings decode to their commands, one of each family, and
the neighbour of R72's example is reserved. -/
def Obligations.SpecWordsDecode : Prop :=
  decode 0x01200005 = .ok (.lih 2 5) ∧ decode 0x05050003 = .ok (.csrw 3 5)
    ∧ decode 0x11020000 = .ok (.x2f 2) ∧ decode 0x26312000 = .ok (.shl 3 1 2)
    ∧ decode 0x32312000 = .ok (.atan2 3 1 2) ∧ decode 0x4000010A = .ok (.bset 10 true)
    ∧ decode 0x50000802 = .ok (.spalw 2 8) ∧ decode 0x54000001 = .ok (.rtext true)
    ∧ decode 0x01230005 = .error (.mustBeZero 0x01)

/-- Command words as bytes are little-endian (30_encoding.md R72). That fewer than four bytes are no
command is the model's reading of 20_memory.md R55 (DEDUCED, log 14). -/
def Obligations.LittleEndianCommandBytes : Prop :=
  (∀ b0 b1 b2 b3 : Byte, (wordOfBytes b0 b1 b2 b3).toNat
      = b0.toNat + 0x100 * b1.toNat + 0x10000 * b2.toNat + 0x1000000 * b3.toNat)
    ∧ (∀ w : Word, ∃ b0 b1 b2 b3, bytesOfWord w = [b0, b1, b2, b3] ∧ wordOfBytes b0 b1 b2 b3 = w)
    ∧ (∀ b0 b1 b2 b3 rest i, decode (wordOfBytes b0 b1 b2 b3) = .ok i →
        decodeBytes (b0 :: b1 :: b2 :: b3 :: rest) = .ok (i, rest))
    ∧ (∀ bs : List Byte, bs.length < 4 → decodeBytes bs = .error (.partialWord bs.length))
    ∧ bytesOfWord 0x01200005 = [0x05, 0x00, 0x20, 0x01]
    ∧ encode (.lih 2 5) = 0x01200005 ∧ decode 0x01230005 = .error (.mustBeZero 0x01)

/-! ## The machine -/

/-- A step with a command word at the port runs the command the word decodes to, on the state that
has taken the word from the port (30_encoding.md R60, R66); so does the first step after the word is
presented. -/
def Obligations.StepExecutesPresentedCommand : Prop :=
  (∀ s w i rest, s.port = .command w :: rest → decode w = .ok i →
      step s = exec i { s with port := rest } ∧ ∀ t, step s = .next t → t.port = rest)
    ∧ ∀ s i, step (s.withFetchWord 32 (encode i).toNat) = exec i s

/-- A reserved word sets `STATUS.UNIMP` and changes nothing else, and the block is ready for the next
command (30_encoding.md R68): it stands at the rest of the port (log 2). -/
def Obligations.ReservedWordOnlySetsUnimp : Prop :=
  ∀ s w rest, s.port = .command w :: rest → (∀ row ∈ opTable, row.covers w = false) →
    ∃ t, step s = .next t ∧ SameRegs s t ∧ OnlyCsr .status 1 s t ∧ SameRaw s t ∧ SameHeld s t
      ∧ SameSpal s t ∧ SameMemory s t ∧ t.sink = s.sink ∧ t.port = rest

/-- No step faults and none is refused, whatever the word and the state (60_exceptions.md R190). -/
def Obligations.EveryStepCompletes : Prop :=
  ∀ s, ∃ t, step s = .next t

/-- The memory spaces stay in canonical form and inside their bounds, whatever the host does: the
model's own invariant (logs 1, 19). -/
def Obligations.StepKeepsMemoryCanonical : Prop :=
  ∀ s t, s.Inv → step s = .next t → t.Inv

/-- The invariant holds at reset (logs 1, 19). -/
def Obligations.ResetMemoryCanonical : Prop := State.reset.Inv

/-- The reset state, and the state the reset input leaves in any state, has every piece of block state
at the value of 10_state.md R31; the external memories and the sink are untouched
(70_reset_and_hazards.md R210). That the reset input stands at the port is the model's form (log 8). -/
def Obligations.ResetInputRestoresBlock : Prop :=
  BlockAtReset State.reset
    ∧ ∀ s rest, s.port = .external .reset :: rest →
      ∃ t, step s = .next t ∧ BlockAtReset t ∧ SameMemory s t ∧ t.sink = s.sink ∧ t.port = rest

/-- Straight after reset every query gives 0, `F2X` gives 0, `SPALR` gives its index and `RTRUE` shows
`FB` through `MASTER` directly (70_reset_and_hazards.md R211). -/
def Obligations.QueriesStraightAfterReset : Prop :=
  ∀ s, BlockAtReset s →
    (∀ rd slot, ∃ t, exec (.btn rd slot) s = .next t ∧ RegEffect rd 0 s t)
      ∧ (∀ rd slot, ∃ t, exec (.btnp rd slot) s = .next t ∧ RegEffect rd 0 s t)
      ∧ (∀ rd, ∃ t, exec (.btnm rd) s = .next t ∧ RegEffect rd 0 s t)
      ∧ (∀ rd, ∃ t, exec (.btnpm rd) s = .next t ∧ RegEffect rd 0 s t)
      ∧ (∀ rd slot, ∃ t, exec (.held rd slot) s = .next t ∧ RegEffect rd 0 s t)
      ∧ (∀ rd, ∃ t, exec (.f2x rd) s = .next t ∧ RegEffect rd 0 s t)
      ∧ (∀ rd idx, ∃ t, exec (.spalr rd idx) s = .next t
          ∧ RegEffect rd (BitVec.ofNat 32 idx.toNat) s t)
      ∧ ∃ t, exec .rtrue s = .next t ∧ ∀ x y, x < 128 → y < 128 →
          let c := Config.master (pixIdx s.readFb x y)
          Memory.read t.pix (3 * (128 * y + x)) = c.extractLsb' 16 8
            ∧ Memory.read t.pix (3 * (128 * y + x) + 1) = c.extractLsb' 8 8
            ∧ Memory.read t.pix (3 * (128 * y + x) + 2) = c.extractLsb' 0 8

/-- With nothing presented the block holds its state (60_exceptions.md R202): the model's reading of
"idle" (log 3). -/
def Obligations.IdleBlockHoldsItsState : Prop :=
  ∀ s, s.port = [] → step s = .next s

/-- Between commands the outside agents write single bytes of the VM address space (within its
bounds, else nothing happens), of `PREV` and of `PIX`, and nothing else changes
(20_memory.md R41, R42, R44, R45, R51). The actions are the model's form of R51 (log 9). -/
def Obligations.OutsideWritesLandBetweenCommands : Prop :=
  ∀ s rest, s.Inv →
    (∀ a b, s.port = .external (.vmWrite a b) :: rest →
      ∃ t, step s = .next t
        ∧ (∀ i, Memory.read t.vm i
            = if i = a ∧ a < Config.sizeMemory then b else Memory.read s.vm i)
        ∧ SameBytes s.prev t.prev ∧ SameBytes s.pix t.pix ∧ SameRegs s t ∧ SameCsrs s t
        ∧ SameRaw s t ∧ SameHeld s t ∧ SameSpal s t ∧ t.sink = s.sink ∧ t.port = rest)
      ∧ (∀ k b, s.port = .external (.prevWrite k b) :: rest →
        ∃ t, step s = .next t
          ∧ (∀ i, Memory.read t.prev i = if i = k.val then b else Memory.read s.prev i)
          ∧ SameBytes s.vm t.vm ∧ SameBytes s.pix t.pix ∧ SameRegs s t ∧ SameCsrs s t
          ∧ SameRaw s t ∧ SameHeld s t ∧ SameSpal s t ∧ t.sink = s.sink ∧ t.port = rest)
      ∧ (∀ k b, s.port = .external (.pixWrite k b) :: rest →
        ∃ t, step s = .next t
          ∧ (∀ i, Memory.read t.pix i = if i = k.val then b else Memory.read s.pix i)
          ∧ SameBytes s.vm t.vm ∧ SameBytes s.prev t.prev ∧ SameRegs s t ∧ SameCsrs s t
          ∧ SameRaw s t ∧ SameHeld s t ∧ SameSpal s t ∧ t.sink = s.sink ∧ t.port = rest)

/-- `MemRead(FB, i, 1)` and the pixel layout: `FB` index `i` is VM address `OFFSET_SCREEN + i`, 0x00
outside the address space; even columns are low nibbles (20_memory.md R42, R43). -/
def Obligations.FramebufferBytesAndPixels : Prop :=
  (∀ (s : State) (i : Nat), i ≤ 8191 →
      let a := Config.offsetScreen + (i : Int)
      s.readFb i = if 0 ≤ a ∧ a < Config.sizeMemory then Memory.read s.vm a.toNat else 0x00)
    ∧ ∀ (space : Nat → Byte) x y, x ≤ 127 → y ≤ 127 →
      (pixIdx space x y).toNat = if x % 2 = 0 then (space (64 * y + x / 2)).toNat % 16
        else (space (64 * y + x / 2)).toNat / 16

/-! ## Data movement -/

/-- `NOP` changes nothing, and no other word has its opcode (40_data_movement.md R80). -/
def Obligations.NopChangesNothing : Prop :=
  (∀ s, EncodedAs .nop 0x00000000 0xFFFFFFFF ∧ exec .nop s = .next s)
    ∧ ∀ w : Word, opOf w = 0x00 → w ≠ 0 → decode w = .error (.mustBeZero 0x00)

/-- `LIH` (40_data_movement.md R81). -/
def Obligations.LihLoadsTheHighHalf : Prop :=
  ∀ rd imm s, EncodedAs (.lih rd imm) 0x01000000 0xFF0F0000
    ∧ ∃ t, exec (.lih rd imm) s = .next t
      ∧ RegEffect rd (BitVec.ofNat 32 (imm.toNat * 0x10000)) s t ∧ fx (t.getX rd) = imm.toInt

/-- `LIL` (40_data_movement.md R82). -/
def Obligations.LilReplacesTheLowHalf : Prop :=
  ∀ rd imm s, EncodedAs (.lil rd imm) 0x02000000 0xFF0F0000
    ∧ ∃ t, exec (.lil rd imm) s = .next t
      ∧ RegEffect rd
          (BitVec.ofNat 32 ((s.getX rd).toNat / 0x10000 * 0x10000 + imm.toNat)) s t

/-- `MOV` (40_data_movement.md R83). -/
def Obligations.MovCopiesARegister : Prop :=
  ∀ rd ra s, EncodedAs (.mov rd ra) 0x03000000 0xFF00FFFF
    ∧ ∃ t, exec (.mov rd ra) s = .next t ∧ RegEffect rd (s.getX ra) s t

/-- `CSRR`, every number: the seven registers, and the neutral value and `UNIMP` for the others
(40_data_movement.md R84, 10_state.md R15). -/
def Obligations.CsrrReadsEveryNumber : Prop :=
  ∀ rd csr s, EncodedAs (.csrr rd csr) 0x04000000 0xFF0F0000
    ∧ ∃ t, exec (.csrr rd csr) s = .next t
      ∧ match csr.toNat with
        | 0 => RegEffect rd (if s.unimp = true then 0x00000001 else 0x00000000) s t
        | 1 => RegEffect rd s.flo s t
        | 2 => RegEffect rd s.fhi s t
        | 3 => RegEffect rd s.dout s t
        | 4 => RegEffect rd s.ptrx s t
        | 5 => RegEffect rd s.ptry s t
        | 6 => RegEffect rd s.ptrb s t
        | _ => OnlyReg rd 0x00000000 s t ∧ UnimpEffect s t

/-- `CSRW`, every number: bit 0 alone of `STATUS`, the whole of the six others, `UNIMP` and nothing
else for an unimplemented one (40_data_movement.md R85, 10_state.md R15, R16). -/
def Obligations.CsrwWritesEveryNumber : Prop :=
  ∀ csr ra s, EncodedAs (.csrw csr ra) 0x05000000 0xFFF00000
    ∧ ∃ t, exec (.csrw csr ra) s = .next t
      ∧ match csr.toNat with
        | 0 => CsrEffect .status (s.getX ra &&& 1) s t
        | 1 => CsrEffect .flo (s.getX ra) s t
        | 2 => CsrEffect .fhi (s.getX ra) s t
        | 3 => CsrEffect .dout (s.getX ra) s t
        | 4 => CsrEffect .ptrx (s.getX ra) s t
        | 5 => CsrEffect .ptry (s.getX ra) s t
        | 6 => CsrEffect .ptrb (s.getX ra) s t
        | _ => SameRegs s t ∧ UnimpEffect s t

/-- `UNIMP` is sticky. A decoded command changes it only by naming an unimplemented control register,
which sets it, or by `CSRW STATUS`, which writes bit 0; a step of any kind changes it only by such a
command, by a reserved word, which sets it, or by the reset input, which clears it
(10_state.md R13, R15, R16, 30_encoding.md R68). That reset stands at the port is log 8. -/
def Obligations.UnimpIsSticky : Prop :=
  (∀ i s t, exec i s = .next t → t.unimp ≠ s.unimp → UnimpCause i s t)
    ∧ ∀ s t, step s = .next t → t.unimp ≠ s.unimp →
      (∃ rest, s.port = .external .reset :: rest ∧ t.unimp = false)
        ∨ ∃ w rest, s.port = .command w :: rest
          ∧ (((∀ row ∈ opTable, row.covers w = false) ∧ t.unimp = true)
            ∨ ∃ i, decode w = .ok i ∧ UnimpCause i s t)

/-- What the seven pseudo-instructions do: `LI`, `OUT`, `FLD`, `FST`, `SETPTR`, `PRESS`, `RELEASE`
(30_encoding.md R71). `FLD ra, rb` puts `x[ra]` into the low word of `F`, `x[rb]` into the high. -/
def Obligations.PseudoInstructionEffects : Prop :=
  (∀ rd v s, ∃ t, execAll (pseudoLi rd v) s = .next t ∧ RegEffect rd v s t)
    ∧ (∀ ra s, ∃ t, execAll (pseudoOut ra) s = .next t ∧ CsrEffect .dout (s.getX ra) s t)
    ∧ (∀ ra rb s, ∃ t, execAll (pseudoFld ra rb) s = .next t
        ∧ FloatEffect (joinWords (s.getX rb) (s.getX ra)) s t
        ∧ t.fhi = s.getX rb ∧ t.flo = s.getX ra
        ∧ t.float.toNat = (s.getX rb).toNat * 2 ^ 32 + (s.getX ra).toNat)
    ∧ (∀ rd re s, ∃ t, execAll (pseudoFst rd re) s = .next t
        ∧ (∀ q, t.getX q = if q = re then s.fhi else if q = rd then s.flo else s.getX q)
        ∧ SameCsrs s t ∧ SameOutsideRegs s t)
    ∧ (∀ ra rb rc s, ∃ t, execAll (pseudoSetptr ra rb rc) s = .next t ∧ SameRegs s t
        ∧ (∀ c, readCsr c t = match c with
            | .ptrx => s.getX ra
            | .ptry => s.getX rb
            | .ptrb => s.getX rc
            | d => readCsr d s)
        ∧ SameOutsideRegs s t)
    ∧ (∀ slot s, ∃ t, execAll (pseudoPress slot) s = .next t
        ∧ (∀ j, t.getRaw j = if j = slot then true else s.getRaw j)
        ∧ SameRegs s t ∧ SameCsrs s t ∧ SameHeld s t ∧ SameSpal s t ∧ SameMemory s t
        ∧ SameStreams s t)
    ∧ ∀ slot s, ∃ t, execAll (pseudoRelease slot) s = .next t
        ∧ (∀ j, t.getRaw j = if j = slot then false else s.getRaw j)
        ∧ SameRegs s t ∧ SameCsrs s t ∧ SameHeld s t ∧ SameSpal s t ∧ SameMemory s t
        ∧ SameStreams s t

/-! ## Conversion -/

/-- `F2X`: a finite float is `RN(value * 65536)` modulo 2^32, a NaN of either sign and +inf are the
maximum, -inf the minimum (41_fixed_conversion.md R91, R93); `F` has `FHI` as its high word
(10_state.md R19). -/
def Obligations.F2xRoundsWrapsAndSaturates : Prop :=
  ∀ rd s, EncodedAs (.f2x rd) 0x10000000 0xFF0FFFFF
    ∧ ∃ t, exec (.f2x rd) s = .next t
      ∧ RegEffect rd
          (if f64Exp s.float = 2047 then
            (if f64Frac s.float = 0 ∧ f64Sign s.float = true then 0x80000000 else 0x7FFFFFFF)
          else BitVec.ofInt 32 (RN (f64Value s.float * 65536))) s t
      ∧ s.float.toNat = s.fhi.toNat * 2 ^ 32 + s.flo.toNat

/-- `X2F` is exact for every pattern, which R92 derives from R87 and R90, and never gives -0.0, a
subnormal, an infinity or a NaN; `FHI` takes the high word, `FLO` the low (`FloatEffect`)
(41_fixed_conversion.md R92, R94, 10_state.md R19). -/
def Obligations.X2fIsExact : Prop :=
  ∀ ra s, EncodedAs (.x2f ra) 0x11000000 0xFFF0FFFF
    ∧ ∃ t, exec (.x2f ra) s = .next t ∧ FloatEffect t.float s t
      ∧ f64Value t.float = fx (s.getX ra)
      ∧ (s.getX ra = 0 → t.float = 0)
      ∧ (s.getX ra ≠ 0 → 1007 ≤ f64Exp t.float ∧ f64Exp t.float ≤ 1038
          ∧ let a := (s.getX ra).toInt.natAbs
            (f64Sign t.float = true ↔ (s.getX ra).toInt < 0) ∧ f64Exp t.float = 1007 + a.log2
              ∧ f64Frac t.float = a * 2 ^ (52 - a.log2) % 2 ^ 52)

/-- `FCLAMP` does to `F` what `F2X` and then `X2F` of the same register do, and touches no general
register; a second `FCLAMP` changes nothing (41_fixed_conversion.md R95). -/
def Obligations.FclampIsF2xThenX2f : Prop :=
  ∀ rd s, EncodedAs .fclamp 0x12000000 0xFFFFFFFF
    ∧ ∃ t u v, exec .fclamp s = .next t ∧ exec (.f2x rd) s = .next u ∧ exec (.x2f rd) u = .next v
      ∧ FloatEffect v.float s t ∧ exec .fclamp t = .next t

/-- The three properties of R96: fixed to float to fixed is the identity and a float that is a 16.16
value keeps its value; the clamp is idempotent, for every `F`; within the range it rounds to
nearest. -/
def Obligations.ConversionProperties : Prop :=
  (∀ ra rd s, ∃ t u, exec (.x2f ra) s = .next t ∧ exec (.f2x rd) t = .next u
      ∧ u.getX rd = s.getX ra)
    ∧ (∀ s, f64Finite s.float →
        (∃ n : Int, f64Value s.float * 65536 = n ∧ -2 ^ 31 ≤ n ∧ n ≤ 2 ^ 31 - 1) →
        ∃ t, exec .fclamp s = .next t ∧ f64Value t.float = f64Value s.float)
    ∧ (∀ s, ∃ t, exec .fclamp s = .next t ∧ exec .fclamp t = .next t)
    ∧ ∀ s, f64Finite s.float → -2 ^ 31 ≤ RN (f64Value s.float * 65536) →
        RN (f64Value s.float * 65536) ≤ 2 ^ 31 - 1 →
        ∃ t, exec .fclamp s = .next t ∧ f64Finite t.float
          ∧ |f64Value t.float - f64Value s.float| * 65536 ≤ 1 / 2

/-! ## Scalar -/

/-- `SGN`: zero counts as negative (42_fixed_scalar.md R103). -/
def Obligations.SgnMapsZeroToMinusOne : Prop :=
  ∀ rd ra s, EncodedAs (.sgn rd ra) 0x20000000 0xFF00FFFF
    ∧ ∃ t, exec (.sgn rd ra) s = .next t
      ∧ RegEffect rd (if 0 < (s.getX ra).toInt then 0x00010000 else 0xFFFF0000) s t

/-- `SQRT`: 0 for a non-positive value, else the nearest 16.16 value to the real root: with
`N = n * 65536`, `r - 1/2 < sqrt N < r + 1/2` (42_fixed_scalar.md R104). -/
def Obligations.SqrtIsTheNearestRoot : Prop :=
  ∀ rd ra s, EncodedAs (.sqrt rd ra) 0x21000000 0xFF00FFFF
    ∧ ∃ t, exec (.sqrt rd ra) s = .next t ∧ RegEffect rd (t.getX rd) s t
      ∧ ((s.getX ra).toInt ≤ 0 → t.getX rd = 0)
      ∧ (0 < (s.getX ra).toInt →
          let N : Int := (s.getX ra).toInt * 65536
          let r : Int := (t.getX rd).toNat
          (2 * r - 1) ^ 2 < 4 * N ∧ 4 * N < (2 * r + 1) ^ 2 ∧ 0 < r ∧ r ≤ 11863283)

/-- `tr16` is truncation toward zero, by its two cases, and always fits 16 bits
(42_fixed_scalar.md R101). -/
def Obligations.TruncationCaseTable : Prop :=
  ∀ v : Word,
    tr16 v = (if 0 ≤ v.toInt ∨ v.extractLsb' 0 16 = 0 then (v.extractLsb' 16 16).toInt
        else (v.extractLsb' 16 16).toInt + 1)
      ∧ (tr16 v : ℚ) = (if 0 ≤ fx v then ⌊fx v⌋ else -⌊-fx v⌋)
      ∧ -32768 ≤ tr16 v ∧ tr16 v ≤ 32767

/-- `BAND`, `BOR`, `BXOR` work bit by bit on the truncated 16-bit patterns, and the result has no
fraction bits (42_fixed_scalar.md R105, R106, R107). -/
def Obligations.BitwiseResults : Prop :=
  ∀ rd ra rb s,
    let a := BitVec.ofInt 16 (tr16 (s.getX ra))
    let b := BitVec.ofInt 16 (tr16 (s.getX rb))
    (EncodedAs (.band rd ra rb) 0x22000000 0xFF000FFF ∧ ∃ t, exec (.band rd ra rb) s = .next t
        ∧ RegEffect rd (BitVec.ofNat 32 ((a &&& b).toNat * 0x10000)) s t)
      ∧ (EncodedAs (.bor rd ra rb) 0x23000000 0xFF000FFF ∧ ∃ t, exec (.bor rd ra rb) s = .next t
        ∧ RegEffect rd (BitVec.ofNat 32 ((a ||| b).toNat * 0x10000)) s t)
      ∧ (EncodedAs (.bxor rd ra rb) 0x24000000 0xFF000FFF ∧ ∃ t, exec (.bxor rd ra rb) s = .next t
        ∧ RegEffect rd (BitVec.ofNat 32 ((a ^^^ b).toNat * 0x10000)) s t)

/-- `BNOT` gives the integer `-a - 1` (42_fixed_scalar.md R108, R102). -/
def Obligations.BnotIsMinusOneMinus : Prop :=
  ∀ rd ra s, EncodedAs (.bnot rd ra) 0x25000000 0xFF00FFFF
    ∧ ∃ t, exec (.bnot rd ra) s = .next t
      ∧ RegEffect rd (BitVec.ofInt 32 ((-tr16 (s.getX ra) - 1) * 0x10000)) s t

/-- `sh16(a, n) = wrap16(floor(a * 2^n))` for every 16-bit signed `a` and every integer count, large
and negative ones included (42_fixed_scalar.md R109). -/
def Obligations.ShiftFunctionIsFloorOfProduct : Prop :=
  ∀ a n : Int, -32768 ≤ a → a ≤ 32767 → sh16 a n = BitVec.ofInt 16 ⌊(a : ℚ) * (2 : ℚ) ^ n⌋

/-- `SHL` and `SHR` (42_fixed_scalar.md R110, R111). -/
def Obligations.ShiftResults : Prop :=
  ∀ rd ra rb s,
    (EncodedAs (.shl rd ra rb) 0x26000000 0xFF000FFF ∧ ∃ t, exec (.shl rd ra rb) s = .next t
        ∧ RegEffect rd (BitVec.ofInt 32
            (⌊(tr16 (s.getX ra) : ℚ) * (2 : ℚ) ^ tr16 (s.getX rb)⌋ * 0x10000)) s t)
      ∧ (EncodedAs (.shr rd ra rb) 0x27000000 0xFF000FFF ∧ ∃ t, exec (.shr rd ra rb) s = .next t
        ∧ RegEffect rd (BitVec.ofInt 32
            (⌊(tr16 (s.getX ra) : ℚ) * (2 : ℚ) ^ (-tr16 (s.getX rb))⌋ * 0x10000)) s t)

/-! ## Trigonometry -/

/-- The quarter-wave table is the correctly rounded sine: `QSIN[i] = RN(65536 * sin(2*pi*i/65536))`,
never at a tie (43_trig.md R121). -/
def Obligations.QsinIsCorrectlyRounded : Prop :=
  ∀ i : Nat, i ≤ 16384 →
    |65536 * Real.sin (2 * Real.pi * i / 65536) - (qsin i : ℝ)| < 1 / 2

/-- `sinq` by quarter-wave symmetry (43_trig.md R122). -/
def Obligations.SinqIsQuarterWaveSymmetric : Prop :=
  ∀ a : Nat, a ≤ 65535 →
    (a ≤ 16384 → sinq (BitVec.ofNat 16 a) = qsin a)
      ∧ (16384 < a → a ≤ 32768 → sinq (BitVec.ofNat 16 a) = qsin (32768 - a))
      ∧ (32768 < a → a ≤ 49152 → sinq (BitVec.ofNat 16 a) = -(qsin (a - 32768) : Int))
      ∧ (49152 < a → sinq (BitVec.ofNat 16 a) = -(qsin (65536 - a) : Int))

/-- `COS` and `SIN` depend on bits 15:0 of the operand only, `COS` a quarter turn ahead, `SIN` negated
(43_trig.md R123, R124). -/
def Obligations.CosAndSinResults : Prop :=
  ∀ rd ra s,
    let a := (s.getX ra).toNat % 65536
    (EncodedAs (.cos rd ra) 0x30000000 0xFF00FFFF ∧ ∃ t, exec (.cos rd ra) s = .next t
        ∧ RegEffect rd (BitVec.ofInt 32 (sinq (BitVec.ofNat 16 ((a + 16384) % 65536)))) s t)
      ∧ (EncodedAs (.sin rd ra) 0x31000000 0xFF00FFFF ∧ ∃ t, exec (.sin rd ra) s = .next t
        ∧ RegEffect rd (BitVec.ofInt 32 (-sinq (BitVec.ofNat 16 a))) s t)

/-- `COS` and `SIN` are the exact real functions rounded to the nearest 16.16 value, for every
operand (43_trig.md R120). -/
def Obligations.CosAndSinAreCorrectlyRounded : Prop :=
  ∀ rd ra s,
    (∃ t, exec (.cos rd ra) s = .next t
        ∧ |65536 * Real.cos (-2 * Real.pi * (fx (s.getX ra) : ℝ)) - ((t.getX rd).toInt : ℝ)| < 1 / 2)
      ∧ ∃ t, exec (.sin rd ra) s = .next t
        ∧ |65536 * Real.sin (-2 * Real.pi * (fx (s.getX ra) : ℝ)) - ((t.getX rd).toInt : ℝ)| < 1 / 2

/-- Period, parity, quarter shift and half turn of `COS` and `SIN` (43_trig.md R127, items 1 to 4). -/
def Obligations.TurnIdentities : Prop :=
  ∀ v : Word,
    (cosTurns (v + 0x10000) = cosTurns v ∧ sinTurns (v + 0x10000) = sinTurns v)
      ∧ (cosTurns (-v) = cosTurns v ∧ sinTurns (-v) = -sinTurns v)
      ∧ (cosTurns v = sinTurns (v - 0x4000) ∧ sinTurns v = -cosTurns (v - 0x4000))
      ∧ (cosTurns (v + 0x8000) = -cosTurns v ∧ sinTurns (v + 0x8000) = -sinTurns v)

/-- `ATAN2`: its effect, its range, and the directions of R126's table: the origin, the axes and the
diagonals at every length, and the two patterns beside the positive axis. -/
def Obligations.Atan2AxesAndDiagonals : Prop :=
  ∀ rd ra rb s, EncodedAs (.atan2 rd ra rb) 0x32000000 0xFF000FFF
    ∧ ∃ t, exec (.atan2 rd ra rb) s = .next t
      ∧ RegEffect rd (BitVec.ofNat 32 (atanT (s.getX ra).toInt (s.getX rb).toInt)) s t
      ∧ (t.getX rd).toNat < 65536
      ∧ let X := (s.getX ra).toInt
        let Y := (s.getX rb).toInt
        (X = 0 → Y = 0 → t.getX rd = 0xC000)
          ∧ (0 < X → Y = 0 → t.getX rd = 0x0000) ∧ (X = 0 → Y < 0 → t.getX rd = 0x4000)
          ∧ (X < 0 → Y = 0 → t.getX rd = 0x8000) ∧ (X = 0 → 0 < Y → t.getX rd = 0xC000)
          ∧ (0 < X → Y = -X → t.getX rd = 0x2000) ∧ (X < 0 → Y = X → t.getX rd = 0x6000)
          ∧ (X < 0 → Y = -X → t.getX rd = 0xA000) ∧ (0 < X → Y = X → t.getX rd = 0xE000)
          ∧ (X = 0x10000 → Y = 1 → t.getX rd = 0x0000)
          ∧ (X = 0x10000 → Y = -1 → t.getX rd = 0x0000)
          ∧ (X = 2147483647 → Y = -2147483648 → t.getX rd = 0x2000)

/-- The symmetries of the arctangent on every direction: range, opposite, quarter turn, mirror, scale
(43_trig.md R129, items 1 to 5). -/
def Obligations.ArctangentSymmetries : Prop :=
  ∀ X Y : Int, ¬(X = 0 ∧ Y = 0) →
    atanT X Y ≤ 65535
      ∧ atanT (-X) (-Y) = (atanT X Y + 32768) % 65536
      ∧ atanT Y (-X) = (atanT X Y + 16384) % 65536
      ∧ (atanT X (-Y) + atanT X Y) % 65536 = 0
      ∧ ∀ k : Int, 1 ≤ k → atanT (k * X) (k * Y) = atanT X Y

/-- Within a quadrant the result does not fall as the direction turns from the positive X axis
(43_trig.md R129, item 7). -/
def Obligations.ArctangentIsMonotone : Prop :=
  ∀ X Y X' Y' : Int, 0 < X → Y ≤ 0 → 0 ≤ X' → Y' ≤ 0 → ¬(X' = 0 ∧ Y' = 0) →
    -Y * X' ≤ -Y' * X → atanT X Y ≤ atanT X' Y'

/-- `ATAN2` is the exact real angle of the point `(x, -y)` in turns, rounded to nearest, modulo one
turn, for every pair of operands but the origin (43_trig.md R125). -/
def Obligations.Atan2IsCorrectlyRounded : Prop :=
  ∀ rd ra rb s, ¬(s.getX ra = 0 ∧ s.getX rb = 0) →
    ∃ t, exec (.atan2 rd ra rb) s = .next t ∧ ∃ m : Int,
      |65536 * (Complex.arg ⟨((s.getX ra).toInt : ℝ), -((s.getX rb).toInt : ℝ)⟩ / (2 * Real.pi))
        - ((t.getX rd).toNat : ℝ) - 65536 * m| < 1 / 2

/-! ## Input latch -/

/-- `BSET` writes one raw flag and nothing else (44_input_latch.md R141). -/
def Obligations.BsetWritesOneRawFlag : Prop :=
  ∀ slot v s, EncodedAs (.bset slot v) 0x40000000 0xFFFFFEC0
    ∧ ∃ t, exec (.bset slot v) s = .next t
      ∧ (∀ j, t.getRaw j = if j = slot then v else s.getRaw j)
      ∧ SameRegs s t ∧ SameCsrs s t ∧ SameHeld s t ∧ SameSpal s t ∧ SameMemory s t
      ∧ SameStreams s t

/-- `LUPD` counts every held slot on, folding back at the top, and clears every other
(44_input_latch.md R142, R143). -/
def Obligations.LupdUpdatesEverySlot : Prop :=
  ∀ s, EncodedAs .lupd 0x41000000 0xFFFFFFFF
    ∧ ∃ t, exec .lupd s = .next t
      ∧ (∀ i, (t.getHeld i).toNat =
          if s.getRaw i = true then
            (if (s.getHeld i).toNat < 0xFFFFFFFF then (s.getHeld i).toNat + 1 else 0xFFFFFFFC)
          else 0)
      ∧ SameRegs s t ∧ SameCsrs s t ∧ SameRaw s t ∧ SameSpal s t ∧ SameMemory s t ∧ SameStreams s t

/-- `BTN`, `BTNP` and `HELD` (44_input_latch.md R144 to R147, R150). -/
def Obligations.ButtonQueryResults : Prop :=
  ∀ rd slot s,
    let h := (s.getHeld slot).toNat
    (EncodedAs (.btn rd slot) 0x42000000 0xFF0FFFC0 ∧ ∃ t, exec (.btn rd slot) s = .next t
        ∧ RegEffect rd (if 0 < h then 1 else 0) s t)
      ∧ (EncodedAs (.btnp rd slot) 0x43000000 0xFF0FFFC0 ∧ ∃ t, exec (.btnp rd slot) s = .next t
        ∧ RegEffect rd (if h = 1 ∨ (15 < h ∧ h % 4 = 0) then 1 else 0) s t)
      ∧ (EncodedAs (.held rd slot) 0x46000000 0xFF0FFFC0 ∧ ∃ t, exec (.held rd slot) s = .next t
        ∧ RegEffect rd (s.getHeld slot) s t)

/-- `BTNM` and `BTNPM`: bit `k` reports slot `k` for `k` below 16, bits 31:16 are zero
(44_input_latch.md R148, R149). -/
def Obligations.BulkMaskResults : Prop :=
  ∀ rd s,
    (EncodedAs (.btnm rd) 0x44000000 0xFF0FFFFF ∧ ∃ t, exec (.btnm rd) s = .next t
        ∧ RegEffect rd (t.getX rd) s t
        ∧ ∀ k, ((t.getX rd).getLsbD k = true ↔
            k < 16 ∧ 0 < (s.getHeld (BitVec.ofNat 6 k)).toNat))
      ∧ (EncodedAs (.btnpm rd) 0x45000000 0xFF0FFFFF ∧ ∃ t, exec (.btnpm rd) s = .next t
        ∧ RegEffect rd (t.getX rd) s t
        ∧ ∀ k, ((t.getX rd).getLsbD k = true ↔
            k < 16 ∧ let h := (s.getHeld (BitVec.ofNat 6 k)).toNat
              h = 1 ∨ (15 < h ∧ h % 4 = 0)))

/-- The 32-bit counter stands for the source's unbounded count `n` for ever: while it is the folded
image of `n`, `LUPD` makes it that of `n + 1` (of 0, the flag clear), the reset input that of 0, any
other step leaves it that of `n`; and `BTN` and `BTNP` answer as for `n`, `HELD` shows `n` folded back
above 2^32 - 1 (44_input_latch.md R142 to R145). Commands and reset at the port are logs 2 and 8. -/
def Obligations.HeldCounterIsExactForEver : Prop :=
  ∀ s slot n, (s.getHeld slot).toNat = foldedCount n →
    (∀ rest, s.port = .command (encode .lupd) :: rest → ∃ t, step s = .next t
        ∧ (t.getHeld slot).toNat = foldedCount (if s.getRaw slot = true then n + 1 else 0))
      ∧ (∀ rest, s.port = .external .reset :: rest → ∃ t, step s = .next t
        ∧ (t.getHeld slot).toNat = foldedCount 0)
      ∧ (∀ t, step s = .next t → (∀ rest, s.port ≠ .command (encode .lupd) :: rest) →
        (∀ rest, s.port ≠ .external .reset :: rest) → (t.getHeld slot).toNat = foldedCount n)
      ∧ ∀ rd,
        (∃ t, exec (.btn rd slot) s = .next t ∧ t.getX rd = if 0 < n then 1 else 0)
          ∧ (∃ t, exec (.btnp rd slot) s = .next t
            ∧ t.getX rd = if n = 1 ∨ (15 < n ∧ n % 4 = 0) then 1 else 0)
          ∧ ∃ t, exec (.held rd slot) s = .next t ∧ (t.getX rd).toNat = foldedCount n

/-- A raw flag cannot be seen before the next `LUPD`: every command but `BSET` and `LUPD` does the same
whatever the raw flags hold, and leaves them (10_state.md R30, 44_input_latch.md R152). -/
def Obligations.RawFlagsAreInvisibleUntilLatched : Prop :=
  ∀ i s (raw' : Vector Bool 64), i ≠ .lupd → (∀ slot v, i ≠ .bset slot v) → ∀ t,
    exec i s = .next t → t.raw = s.raw ∧ exec i { s with raw := raw' } = .next { t with raw := raw' }

/-! ## Palette and renderer -/

/-- `SPALW`, `SPALR`, `PALRST` (45_renderer.md R161, R162, R163). -/
def Obligations.PaletteCommandResults : Prop :=
  (∀ idx val s, EncodedAs (.spalw idx val) 0x50000000 0xFFFFF0F0
      ∧ ∃ t, exec (.spalw idx val) s = .next t
        ∧ (∀ j, t.getSpal j = if j = idx then val else s.getSpal j)
        ∧ SameRegs s t ∧ SameCsrs s t ∧ SameRaw s t ∧ SameHeld s t ∧ SameMemory s t
        ∧ SameStreams s t)
    ∧ (∀ rd idx s, EncodedAs (.spalr rd idx) 0x51000000 0xFF0FFFF0
      ∧ ∃ t, exec (.spalr rd idx) s = .next t
        ∧ RegEffect rd (BitVec.ofNat 32 (s.getSpal idx).toNat) s t)
    ∧ ∀ s, EncodedAs .palrst 0x52000000 0xFFFFFFFF
      ∧ ∃ t, exec .palrst s = .next t ∧ (∀ j, t.getSpal j = j)
        ∧ SameRegs s t ∧ SameCsrs s t ∧ SameRaw s t ∧ SameHeld s t ∧ SameMemory s t
        ∧ SameStreams s t

/-- `RTRUE`: pixel `(x, y)` of `PIX` is `MASTER[SPAL[PIXIDX(FB, x, y)]]`, red first; nothing else
changes (45_renderer.md R164, R165; R165 derives the pixel form with 20_memory.md R43; R46). -/
def Obligations.RtruePaintsEveryPixel : Prop :=
  ∀ s, EncodedAs .rtrue 0x53000000 0xFFFFFFFF
    ∧ ∃ t, exec .rtrue s = .next t
      ∧ (∀ x y, x ≤ 127 → y ≤ 127 →
          let c := Config.master (s.getSpal (pixIdx s.readFb x y))
          Memory.read t.pix (3 * (128 * y + x)) = c.extractLsb' 16 8
            ∧ Memory.read t.pix (3 * (128 * y + x) + 1) = c.extractLsb' 8 8
            ∧ Memory.read t.pix (3 * (128 * y + x) + 2) = c.extractLsb' 0 8)
      ∧ (Memory.below 49152 s.pix = true →
          ∀ a, 49152 ≤ a → Memory.read t.pix a = Memory.read s.pix a)
      ∧ SameBytes s.vm t.vm ∧ SameBytes s.prev t.prev ∧ SameRegs s t ∧ SameCsrs s t ∧ SameRaw s t
      ∧ SameHeld s t ∧ SameSpal s t ∧ SameStreams s t

/-- `RTRUE` is the sequence of `MemWrite(PIX, …)` of R165's pseudocode, made one after the other. -/
def Obligations.RtrueIsItsSequenceOfWrites : Prop :=
  ∀ s, Memory.wf s.pix = true → Memory.below 49152 s.pix = true →
    exec .rtrue s
      = .next { s with pix := (rtrueWrites s).foldl (fun m w => Memory.write m w.1 w.2) s.pix }

/-- `RTEXT p` appends, for each text row from top to bottom that is not an unchanged row under
`P = 1`, the row's tokens: cells by the canonical pair of R167, a colour escape exactly where a
colour differs from the previous cell's (45_renderer.md R166 to R169). Nothing else changes. -/
def Obligations.RtextAppendsTheFrame : Prop :=
  ∀ p s, EncodedAs (.rtext p) 0x54000000 0xFFFFFFFE
    ∧ ∃ t rows, exec (.rtext p) s = .next t
      ∧ t.sink = s.sink ++ (List.finRange 64).flatMap rows
      ∧ (∀ r, p = true → RowUnchanged s r → rows r = [])
      ∧ (∀ r, ¬(p = true ∧ RowUnchanged s r) → rows r = specRow s r)
      ∧ SameRegs s t ∧ SameCsrs s t ∧ SameRaw s t ∧ SameHeld s t ∧ SameSpal s t ∧ SameMemory s t
      ∧ t.port = s.port

/-- `RTEXT 0` emits exactly 64 `ROW` and 8192 `GLYPH` tokens, whatever the picture
(45_renderer.md R166). -/
def Obligations.RtextTokenCounts : Prop :=
  ∀ s, ∃ t ts, exec (.rtext false) s = .next t ∧ t.sink = s.sink ++ ts
    ∧ ts.countP isRowToken = 64 ∧ ts.countP isGlyphToken = 8192

/-- Under `RTEXT 1` a text row is emitted exactly when one of its 128 framebuffer bytes differs from
the snapshot; with all 8192 bytes equal nothing at all is emitted (45_renderer.md R168). -/
def Obligations.RtextElidesUnchangedRows : Prop :=
  ∀ s, ∃ t ts, exec (.rtext true) s = .next t ∧ t.sink = s.sink ++ ts
    ∧ (∀ r : Fin 64, Token.row r ∈ ts ↔ ∃ j, j < 128 ∧ s.readFb (128 * r.val + j) ≠ s.readPrev (128 * r.val + j))
    ∧ ((∀ i, i < 8192 → s.readFb i = s.readPrev i) → ts = [])

/-- The canonical pair of a cell: the greater or equal index is the foreground, `LOWER` exactly when
the halves were swapped, and the named half shows its own index (45_renderer.md R167). -/
def Obligations.CellShowsBothHalves : Prop :=
  ∀ (term16 : BitVec 4 → BitVec 8) (top bottom : BitVec 4),
    ((cellOf term16 top bottom).glyph = .lower ↔ top.toNat < bottom.toNat)
      ∧ ((cellOf term16 top bottom).glyph = .upper →
          (cellOf term16 top bottom).fg = term16 top ∧ (cellOf term16 top bottom).bg = term16 bottom)
      ∧ ((cellOf term16 top bottom).glyph = .lower →
          (cellOf term16 top bottom).fg = term16 bottom ∧ (cellOf term16 top bottom).bg = term16 top)

/-- The renderers read nothing but what R170 names: the framebuffer bytes and the palette, and the
snapshot only under `P = 1`. -/
def Obligations.RenderersReadOnlyTheirInputs : Prop :=
  ∀ s s' : State, (∀ i, i < 8192 → s'.readFb i = s.readFb i) → s'.spal = s.spal →
    (∃ t t', exec .rtrue s = .next t ∧ exec .rtrue s' = .next t' ∧ t'.pix = t.pix)
      ∧ ∀ p, (p = true → ∀ i, i < 8192 → s'.readPrev i = s.readPrev i) →
        ∃ t t' ts, exec (.rtext p) s = .next t ∧ exec (.rtext p) s' = .next t'
          ∧ t.sink = s.sink ++ ts ∧ t'.sink = s'.sink ++ ts

/-! ## Rules over all commands -/

/-- No general register but those of the table of 10_state.md R11: a command's effect depends on no
general register but those the table has it read, and it leaves every general register but the one
the table has it write. That these are used, each command's own statement says. -/
def Obligations.CommandsUseOnlyTheirRegisters : Prop :=
  ∀ i s (x' : Vector Word 16) t, exec i s = .next t →
    (∀ r, writesReg i ≠ some r → t.getX r = s.getX r)
      ∧ ((∀ r ∈ readsReg i, State.getX { s with x := x' } r = s.getX r) →
          ∃ t', exec i { s with x := x' } = .next t' ∧ { t' with x := t.x } = t
            ∧ ∀ r, writesReg i = some r → t'.getX r = t.getX r)

/-- Who writes what: `RAW` only `BSET`, `HELD` only `LUPD`, `SPAL` only `SPALW` and `PALRST`, `PIX` only
`RTRUE`, the sink only `RTEXT` and only by appending, `DOUT` and the pointer words only `CSRW`, `F`
only `CSRW`, `X2F` and `FCLAMP`; `FB` and `PREV` no command; the port no command
(10_state.md R17 to R28, 20_memory.md R40, R41, R44, R45, R47). -/
def Obligations.EveryArrayHasItsWriters : Prop :=
  ∀ i s t, exec i s = .next t →
    (t.raw ≠ s.raw → ∃ slot v, i = .bset slot v)
      ∧ (t.held ≠ s.held → i = .lupd)
      ∧ (t.spal ≠ s.spal → (∃ idx val, i = .spalw idx val) ∨ i = .palrst)
      ∧ t.vm = s.vm ∧ t.prev = s.prev ∧ t.port = s.port
      ∧ (t.pix ≠ s.pix → i = .rtrue)
      ∧ (∃ ts, t.sink = s.sink ++ ts ∧ (ts ≠ [] → ∃ p, i = .rtext p))
      ∧ (t.dout ≠ s.dout → ∃ ra, i = .csrw 3 ra)
      ∧ (t.ptrx ≠ s.ptrx → ∃ ra, i = .csrw 4 ra) ∧ (t.ptry ≠ s.ptry → ∃ ra, i = .csrw 5 ra)
      ∧ (t.ptrb ≠ s.ptrb → ∃ ra, i = .csrw 6 ra)
      ∧ (t.flo ≠ s.flo → (∃ ra, i = .csrw 1 ra) ∨ (∃ ra, i = .x2f ra) ∨ i = .fclamp)
      ∧ (t.fhi ≠ s.fhi → (∃ ra, i = .csrw 2 ra) ∨ (∃ ra, i = .x2f ra) ∨ i = .fclamp)
end

