-- ==== Sys2Proof/Laws/Arithmetic.lean ====
section
/-! SUPPORT. Halves of a word, packed results, and the integer square root. -/

namespace Sys2Proof.Machine

theorem getLsbD_joinHalves (hi lo : BitVec 16) (i : Nat) :
    (joinHalves hi lo).getLsbD i = if i < 16 then lo.getLsbD i else hi.getLsbD (i - 16) := by
  unfold joinHalves
  simp only [BitVec.getLsbD_or, BitVec.getLsbD_shiftLeft, BitVec.getLsbD_setWidth]
  by_cases h : i < 16
  · simp [h]; omega
  · by_cases h2 : i < 32
    · have : lo.getLsbD i = false := BitVec.getLsbD_of_ge _ _ (by omega)
      simp [h, h2, this]; omega
    · have : hi.getLsbD (i - 16) = false := BitVec.getLsbD_of_ge _ _ (by omega)
      simp [h, h2, this]

@[simp] theorem highHalf_joinHalves (hi lo : BitVec 16) : highHalf (joinHalves hi lo) = hi := by
  apply BitVec.eq_of_getLsbD_eq
  intro i hi
  simp [highHalf, getLsbD_joinHalves, hi]

@[simp] theorem lowHalf_joinHalves (hi lo : BitVec 16) : lowHalf (joinHalves hi lo) = lo := by
  apply BitVec.eq_of_getLsbD_eq
  intro i hi
  simp [lowHalf, getLsbD_joinHalves, hi]

@[simp] theorem joinHalves_high_low (v : Word) : joinHalves (highHalf v) (lowHalf v) = v := by
  apply BitVec.eq_of_getLsbD_eq
  intro i hi
  rw [getLsbD_joinHalves]
  split
  · simp only [lowHalf, BitVec.getLsbD_extractLsb', Nat.zero_add]
    simp [*]
  · have : i - 16 < 16 := by omega
    simp only [highHalf, BitVec.getLsbD_extractLsb', this, decide_true, Bool.true_and]
    congr 1
    omega

theorem toNat_highHalf (v : Word) : (highHalf v).toNat = v.toNat / 65536 := by
  simp only [highHalf, BitVec.extractLsb'_toNat, Nat.shiftRight_eq_div_pow]
  omega

theorem toNat_lowHalf (v : Word) : (lowHalf v).toNat = v.toNat % 65536 := by
  simp [lowHalf, BitVec.extractLsb'_toNat]

theorem toNat_joinHalves (hi lo : BitVec 16) :
    (joinHalves hi lo).toNat = hi.toNat * 65536 + lo.toNat := by
  have h1 := toNat_highHalf (joinHalves hi lo)
  have h2 := toNat_lowHalf (joinHalves hi lo)
  rw [highHalf_joinHalves] at h1
  rw [lowHalf_joinHalves] at h2
  omega

/-- A packed 16-bit result is that integer as a 16.16 value: fraction bits zero
(42_fixed_scalar.md R102). -/
theorem s32_packBits (r : BitVec 16) : s32 (packBits r) = r.toInt * 65536 := by
  have h := toNat_joinHalves r 0
  have := r.isLt
  have z : (0 : BitVec 16).toNat = 0 := rfl
  simp only [s32, packBits, BitVec.toInt_eq_toNat_cond, h, z]
  split_ifs <;> omega

/-- The digit search keeps the root below the target and narrows the gap. -/
theorem isqrtBits_spec (n b r : Nat) (h : r * r ≤ n) (hn : n < (r + 2 ^ b) * (r + 2 ^ b)) :
    isqrtBits n b r * isqrtBits n b r ≤ n ∧ n < (isqrtBits n b r + 1) * (isqrtBits n b r + 1) := by
  induction b generalizing r with
  | zero => exact ⟨h, by simpa [isqrtBits] using hn⟩
  | succ b ih =>
    have e : r + 2 ^ (b + 1) = r + 2 ^ b + 2 ^ b := by rw [Nat.pow_succ]; omega
    unfold isqrtBits
    split_ifs with hb
    · exact ih (r + 2 ^ b) hb (by rw [← e]; exact hn)
    · exact ih r h (by omega)

/-- `isqrt` is the floor of the square root on the radicands of R104. -/
theorem isqrt_spec {n : Nat} (hn : n < 2 ^ 48) :
    isqrt n * isqrt n ≤ n ∧ n < (isqrt n + 1) * (isqrt n + 1) :=
  isqrtBits_spec n 24 0 (by simp) (by simpa using hn)

end Sys2Proof.Machine
end

