-- ==== Sys2Proof/Laws/Memory.lean ====
section
/-! SUPPORT. The laws of a memory space: a read after a write, the canonical form and the bounds
kept by every operation, and equal bytes meaning equal memories. -/

namespace Sys2Proof.Machine

/-! ## Reading what was written -/

@[simp] theorem Memory.read_nil (a : Nat) : Memory.read [] a = Memory.blank := rfl

theorem Memory.read_cons (k : Nat) (v : Byte) (m : Memory) (a : Nat) :
    Memory.read ((k, v) :: m) a = if a = k then v else Memory.read m a := rfl

/-- Below the first address a canonical memory reads blank. -/
theorem Memory.read_of_lt {m : Memory} {lo a : Nat} (h : Memory.wfFrom lo m = true) (ha : a < lo) :
    Memory.read m a = Memory.blank := by
  induction m generalizing lo with
  | nil => rfl
  | cons c m ih =>
    obtain ⟨k, v⟩ := c
    simp only [Memory.wfFrom, Bool.and_eq_true, decide_eq_true_eq] at h
    rw [Memory.read_cons, if_neg (by omega)]
    exact ih h.2 (by omega)

/-- A smaller lower bound is a weaker claim. -/
theorem Memory.wfFrom_mono {m : Memory} {lo lo' : Nat} (h : Memory.wfFrom lo m = true)
    (hl : lo' ≤ lo) : Memory.wfFrom lo' m = true := by
  cases m with
  | nil => rfl
  | cons c m =>
    obtain ⟨k, v⟩ := c
    simp only [Memory.wfFrom, Bool.and_eq_true, decide_eq_true_eq] at h ⊢
    exact ⟨⟨by omega, h.1.2⟩, h.2⟩

/-- A write puts its byte at its address and leaves every other byte alone. -/
theorem Memory.read_write {m : Memory} {lo : Nat} (h : Memory.wfFrom lo m = true) (a : Nat) (b : Byte)
    (i : Nat) : Memory.read (Memory.write m a b) i = if i = a then b else Memory.read m i := by
  induction m generalizing lo with
  | nil => by_cases hb : b = Memory.blank <;> by_cases hi : i = a <;>
      simp [Memory.write, Memory.read_cons, hb, hi]
  | cons c m ih =>
    obtain ⟨k, v⟩ := c
    simp only [Memory.wfFrom, Bool.and_eq_true, decide_eq_true_eq] at h
    have below : ∀ j, j ≤ k → Memory.read m j = Memory.blank :=
      fun j hj => Memory.read_of_lt h.2 (by omega)
    rcases Nat.lt_trichotomy a k with h1 | h1 | h1
    · rw [Memory.write, if_pos h1]
      by_cases hb : b = Memory.blank
      · rw [if_pos hb]
        by_cases hi : i = a
        · rw [if_pos hi, Memory.read_cons, if_neg (by omega), below i (by omega), hb]
        · rw [if_neg hi]
      · rw [if_neg hb, Memory.read_cons]
    · subst h1
      rw [Memory.write, if_neg (Nat.lt_irrefl a), if_pos rfl, Memory.read_cons]
      by_cases hb : b = Memory.blank
      · rw [if_pos hb]
        by_cases hi : i = a
        · rw [if_pos hi, below i (by omega), hb]
        · rw [if_neg hi, if_neg hi]
      · rw [if_neg hb, Memory.read_cons]
        by_cases hi : i = a
        · rw [if_pos hi, if_pos hi]
        · rw [if_neg hi, if_neg hi, if_neg hi]
    · rw [Memory.write, if_neg (by omega), if_neg (by omega), Memory.read_cons, Memory.read_cons,
        ih h.2]
      by_cases hi : i = k
      · rw [if_pos hi, if_pos hi, if_neg (by omega)]
      · rw [if_neg hi, if_neg hi]

/-! ## Canonical form and bounds -/

/-- A write keeps the canonical form. -/
theorem Memory.wfFrom_write {m : Memory} {lo a : Nat} (h : Memory.wfFrom lo m = true) (ha : lo ≤ a)
    (b : Byte) : Memory.wfFrom lo (Memory.write m a b) = true := by
  induction m generalizing lo with
  | nil => by_cases hb : b = Memory.blank <;> simp [Memory.write, hb, Memory.wfFrom, ha]
  | cons c m ih =>
    obtain ⟨k, v⟩ := c
    simp only [Memory.wfFrom, Bool.and_eq_true, decide_eq_true_eq] at h
    unfold Memory.write
    split_ifs with h1 hb h2 hb
    · simp [Memory.wfFrom, h]
    · simp only [Memory.wfFrom, Bool.and_eq_true, decide_eq_true_eq]
      exact ⟨⟨ha, hb⟩, ⟨by omega, h.1.2⟩, h.2⟩
    · exact Memory.wfFrom_mono h.2 (by omega)
    · subst h2; simp [Memory.wfFrom, h, hb]
    · simp only [Memory.wfFrom, Bool.and_eq_true, decide_eq_true_eq]
      exact ⟨h.1, ih h.2 (by omega)⟩

theorem Memory.wf_write {m : Memory} (h : Memory.wf m = true) (a : Nat) (b : Byte) :
    Memory.wf (Memory.write m a b) = true := Memory.wfFrom_write h (Nat.zero_le a) b

/-- A write inside the bounds keeps the bounds. -/
theorem Memory.below_write {m : Memory} {n a : Nat} (h : Memory.below n m = true) (ha : a < n)
    (b : Byte) : Memory.below n (Memory.write m a b) = true := by
  induction m with
  | nil => by_cases hb : b = Memory.blank <;> simp [Memory.write, hb, Memory.below, ha]
  | cons c m ih =>
    obtain ⟨k, v⟩ := c
    simp only [Memory.below, List.all_cons, Bool.and_eq_true, decide_eq_true_eq] at h ih
    unfold Memory.write
    split_ifs <;> simp [Memory.below, h, ha]
    all_goals simpa using ih h.2

/-- Beyond its bounds a memory reads blank. -/
theorem Memory.read_of_below {m : Memory} {n a : Nat} (h : Memory.below n m = true) (ha : n ≤ a) :
    Memory.read m a = Memory.blank := by
  induction m with
  | nil => rfl
  | cons c m ih =>
    obtain ⟨k, v⟩ := c
    simp only [Memory.below, List.all_cons, Bool.and_eq_true, decide_eq_true_eq] at h ih
    rw [Memory.read_cons, if_neg (by omega), ih h.2]

/-! ## A space built from its bytes -/

theorem Memory.wfFrom_ofBytes (a : Nat) (bs : List Byte) :
    Memory.wfFrom a (Memory.ofBytes a bs) = true := by
  induction bs generalizing a with
  | nil => rfl
  | cons b bs ih =>
    unfold Memory.ofBytes
    split_ifs with hb
    · exact Memory.wfFrom_mono (ih (a + 1)) (by omega)
    · simp [Memory.wfFrom, hb, ih]

theorem Memory.wf_ofBytes (bs : List Byte) : Memory.wf (Memory.ofBytes 0 bs) = true :=
  Memory.wfFrom_ofBytes 0 bs

theorem Memory.read_ofBytes (a : Nat) (bs : List Byte) (i : Nat) :
    Memory.read (Memory.ofBytes a bs) i =
      if a ≤ i then bs.getD (i - a) Memory.blank else Memory.blank := by
  induction bs generalizing a with
  | nil => simp [Memory.ofBytes]
  | cons b bs ih =>
    by_cases hi : i = a
    · subst hi
      by_cases hb : b = Memory.blank <;>
        simp [Memory.ofBytes, hb, ih, Memory.read_cons]
    · have hs : a ≤ i → i - a = (i - (a + 1)) + 1 := by omega
      have : (a + 1 ≤ i) ↔ (a ≤ i) := by omega
      by_cases hb : b = Memory.blank <;>
        simp only [Memory.ofBytes, hb, if_true, if_false, ih, Memory.read_cons, hi, this] <;>
        split_ifs with h <;> simp [hs, h]

theorem Memory.below_ofBytes {a n : Nat} {bs : List Byte} (h : a + bs.length ≤ n) :
    Memory.below n (Memory.ofBytes a bs) = true := by
  induction bs generalizing a with
  | nil => rfl
  | cons b bs ih =>
    simp only [List.length_cons] at h
    have := ih (a := a + 1) (by omega)
    unfold Memory.ofBytes
    split_ifs
    · exact this
    · simp only [Memory.below, List.all_cons, Bool.and_eq_true, decide_eq_true_eq] at this ⊢
      exact ⟨by omega, this⟩

/-! ## Equal bytes, equal memories -/

theorem Memory.ext_from {m m' : Memory} {lo : Nat} (h : Memory.wfFrom lo m = true)
    (h' : Memory.wfFrom lo m' = true) (e : ∀ a, Memory.read m a = Memory.read m' a) : m = m' := by
  induction m generalizing lo m' with
  | nil =>
    cases m' with
    | nil => rfl
    | cons c m' =>
      obtain ⟨k, v⟩ := c
      simp only [Memory.wfFrom, Bool.and_eq_true, decide_eq_true_eq] at h'
      have := e k
      simp only [Memory.read_nil, Memory.read_cons, if_true] at this
      exact absurd this.symm h'.1.2
  | cons c m ih =>
    obtain ⟨k, v⟩ := c
    simp only [Memory.wfFrom, Bool.and_eq_true, decide_eq_true_eq] at h
    cases m' with
    | nil =>
      have := e k
      simp only [Memory.read_nil, Memory.read_cons, if_true] at this
      exact absurd this h.1.2
    | cons c' m' =>
      obtain ⟨k', v'⟩ := c'
      simp only [Memory.wfFrom, Bool.and_eq_true, decide_eq_true_eq] at h'
      have hk : k = k' := by
        have e1 := e k
        have e2 := e k'
        simp only [Memory.read_cons, if_true] at e1 e2
        by_contra hne
        rcases Nat.lt_or_gt_of_ne hne with hlt | hlt
        · rw [if_neg (by omega), Memory.read_of_lt h'.2 (by omega)] at e1
          exact h.1.2 e1
        · rw [if_neg (by omega), Memory.read_of_lt h.2 (by omega)] at e2
          exact h'.1.2 e2.symm
      subst hk
      have hv : v = v' := by simpa [Memory.read_cons] using e k
      subst hv
      refine congrArg _ (ih h.2 h'.2 fun a => ?_)
      by_cases ha : a ≤ k
      · rw [Memory.read_of_lt h.2 (by omega), Memory.read_of_lt h'.2 (by omega)]
      · have := e a
        rwa [Memory.read_cons, Memory.read_cons, if_neg (by omega), if_neg (by omega)] at this

/-- Two canonical memories with the same bytes are equal. -/
theorem Memory.ext_read {m m' : Memory} (h : Memory.wf m = true) (h' : Memory.wf m' = true)
    (e : ∀ a, Memory.read m a = Memory.read m' a) : m = m' := Memory.ext_from h h' e

/-- The reset state's spaces are canonical. -/
theorem Memory.wf_nil : Memory.wf [] = true := rfl

end Sys2Proof.Machine
end

