-- ==== Sys2Proof/Laws/State.lean ====
section
/-! SUPPORT. One lemma per field per named update of the state, true by `rfl`. -/

namespace Sys2Proof.Machine

/-! ### `State.setX` -/

@[simp] theorem State.setX_x (s : State) (r : Reg) (v : Word) : (s.setX r v).x = s.x.set r.toNat v r.isLt := rfl
@[simp] theorem State.setX_unimp (s : State) (r : Reg) (v : Word) : (s.setX r v).unimp = s.unimp := rfl
@[simp] theorem State.setX_flo (s : State) (r : Reg) (v : Word) : (s.setX r v).flo = s.flo := rfl
@[simp] theorem State.setX_fhi (s : State) (r : Reg) (v : Word) : (s.setX r v).fhi = s.fhi := rfl
@[simp] theorem State.setX_dout (s : State) (r : Reg) (v : Word) : (s.setX r v).dout = s.dout := rfl
@[simp] theorem State.setX_ptrx (s : State) (r : Reg) (v : Word) : (s.setX r v).ptrx = s.ptrx := rfl
@[simp] theorem State.setX_ptry (s : State) (r : Reg) (v : Word) : (s.setX r v).ptry = s.ptry := rfl
@[simp] theorem State.setX_ptrb (s : State) (r : Reg) (v : Word) : (s.setX r v).ptrb = s.ptrb := rfl
@[simp] theorem State.setX_raw (s : State) (r : Reg) (v : Word) : (s.setX r v).raw = s.raw := rfl
@[simp] theorem State.setX_held (s : State) (r : Reg) (v : Word) : (s.setX r v).held = s.held := rfl
@[simp] theorem State.setX_spal (s : State) (r : Reg) (v : Word) : (s.setX r v).spal = s.spal := rfl
@[simp] theorem State.setX_vm (s : State) (r : Reg) (v : Word) : (s.setX r v).vm = s.vm := rfl
@[simp] theorem State.setX_prev (s : State) (r : Reg) (v : Word) : (s.setX r v).prev = s.prev := rfl
@[simp] theorem State.setX_pix (s : State) (r : Reg) (v : Word) : (s.setX r v).pix = s.pix := rfl
@[simp] theorem State.setX_sink (s : State) (r : Reg) (v : Word) : (s.setX r v).sink = s.sink := rfl
@[simp] theorem State.setX_port (s : State) (r : Reg) (v : Word) : (s.setX r v).port = s.port := rfl

/-! ### `State.setUnimp` -/

@[simp] theorem State.setUnimp_x (s : State) : (s.setUnimp).x = s.x := rfl
@[simp] theorem State.setUnimp_unimp (s : State) : (s.setUnimp).unimp = true := rfl
@[simp] theorem State.setUnimp_flo (s : State) : (s.setUnimp).flo = s.flo := rfl
@[simp] theorem State.setUnimp_fhi (s : State) : (s.setUnimp).fhi = s.fhi := rfl
@[simp] theorem State.setUnimp_dout (s : State) : (s.setUnimp).dout = s.dout := rfl
@[simp] theorem State.setUnimp_ptrx (s : State) : (s.setUnimp).ptrx = s.ptrx := rfl
@[simp] theorem State.setUnimp_ptry (s : State) : (s.setUnimp).ptry = s.ptry := rfl
@[simp] theorem State.setUnimp_ptrb (s : State) : (s.setUnimp).ptrb = s.ptrb := rfl
@[simp] theorem State.setUnimp_raw (s : State) : (s.setUnimp).raw = s.raw := rfl
@[simp] theorem State.setUnimp_held (s : State) : (s.setUnimp).held = s.held := rfl
@[simp] theorem State.setUnimp_spal (s : State) : (s.setUnimp).spal = s.spal := rfl
@[simp] theorem State.setUnimp_vm (s : State) : (s.setUnimp).vm = s.vm := rfl
@[simp] theorem State.setUnimp_prev (s : State) : (s.setUnimp).prev = s.prev := rfl
@[simp] theorem State.setUnimp_pix (s : State) : (s.setUnimp).pix = s.pix := rfl
@[simp] theorem State.setUnimp_sink (s : State) : (s.setUnimp).sink = s.sink := rfl
@[simp] theorem State.setUnimp_port (s : State) : (s.setUnimp).port = s.port := rfl

/-! ### `illegal` -/

@[simp] theorem illegal_x (s : State) : (illegal s).x = s.x := rfl
@[simp] theorem illegal_unimp (s : State) : (illegal s).unimp = true := rfl
@[simp] theorem illegal_flo (s : State) : (illegal s).flo = s.flo := rfl
@[simp] theorem illegal_fhi (s : State) : (illegal s).fhi = s.fhi := rfl
@[simp] theorem illegal_dout (s : State) : (illegal s).dout = s.dout := rfl
@[simp] theorem illegal_ptrx (s : State) : (illegal s).ptrx = s.ptrx := rfl
@[simp] theorem illegal_ptry (s : State) : (illegal s).ptry = s.ptry := rfl
@[simp] theorem illegal_ptrb (s : State) : (illegal s).ptrb = s.ptrb := rfl
@[simp] theorem illegal_raw (s : State) : (illegal s).raw = s.raw := rfl
@[simp] theorem illegal_held (s : State) : (illegal s).held = s.held := rfl
@[simp] theorem illegal_spal (s : State) : (illegal s).spal = s.spal := rfl
@[simp] theorem illegal_vm (s : State) : (illegal s).vm = s.vm := rfl
@[simp] theorem illegal_prev (s : State) : (illegal s).prev = s.prev := rfl
@[simp] theorem illegal_pix (s : State) : (illegal s).pix = s.pix := rfl
@[simp] theorem illegal_sink (s : State) : (illegal s).sink = s.sink := rfl
@[simp] theorem illegal_port (s : State) : (illegal s).port = s.port := rfl

/-! ### `writeStatus` -/

@[simp] theorem writeStatus_x (s : State) (v : Word) : (writeStatus v s).x = s.x := rfl
@[simp] theorem writeStatus_unimp (s : State) (v : Word) : (writeStatus v s).unimp = v.getLsbD 0 := rfl
@[simp] theorem writeStatus_flo (s : State) (v : Word) : (writeStatus v s).flo = s.flo := rfl
@[simp] theorem writeStatus_fhi (s : State) (v : Word) : (writeStatus v s).fhi = s.fhi := rfl
@[simp] theorem writeStatus_dout (s : State) (v : Word) : (writeStatus v s).dout = s.dout := rfl
@[simp] theorem writeStatus_ptrx (s : State) (v : Word) : (writeStatus v s).ptrx = s.ptrx := rfl
@[simp] theorem writeStatus_ptry (s : State) (v : Word) : (writeStatus v s).ptry = s.ptry := rfl
@[simp] theorem writeStatus_ptrb (s : State) (v : Word) : (writeStatus v s).ptrb = s.ptrb := rfl
@[simp] theorem writeStatus_raw (s : State) (v : Word) : (writeStatus v s).raw = s.raw := rfl
@[simp] theorem writeStatus_held (s : State) (v : Word) : (writeStatus v s).held = s.held := rfl
@[simp] theorem writeStatus_spal (s : State) (v : Word) : (writeStatus v s).spal = s.spal := rfl
@[simp] theorem writeStatus_vm (s : State) (v : Word) : (writeStatus v s).vm = s.vm := rfl
@[simp] theorem writeStatus_prev (s : State) (v : Word) : (writeStatus v s).prev = s.prev := rfl
@[simp] theorem writeStatus_pix (s : State) (v : Word) : (writeStatus v s).pix = s.pix := rfl
@[simp] theorem writeStatus_sink (s : State) (v : Word) : (writeStatus v s).sink = s.sink := rfl
@[simp] theorem writeStatus_port (s : State) (v : Word) : (writeStatus v s).port = s.port := rfl

/-! ### `State.setFloat` -/

@[simp] theorem State.setFloat_x (s : State) (b : BitVec 64) : (s.setFloat b).x = s.x := rfl
@[simp] theorem State.setFloat_unimp (s : State) (b : BitVec 64) : (s.setFloat b).unimp = s.unimp := rfl
@[simp] theorem State.setFloat_flo (s : State) (b : BitVec 64) : (s.setFloat b).flo = lowWord b := rfl
@[simp] theorem State.setFloat_fhi (s : State) (b : BitVec 64) : (s.setFloat b).fhi = highWord b := rfl
@[simp] theorem State.setFloat_dout (s : State) (b : BitVec 64) : (s.setFloat b).dout = s.dout := rfl
@[simp] theorem State.setFloat_ptrx (s : State) (b : BitVec 64) : (s.setFloat b).ptrx = s.ptrx := rfl
@[simp] theorem State.setFloat_ptry (s : State) (b : BitVec 64) : (s.setFloat b).ptry = s.ptry := rfl
@[simp] theorem State.setFloat_ptrb (s : State) (b : BitVec 64) : (s.setFloat b).ptrb = s.ptrb := rfl
@[simp] theorem State.setFloat_raw (s : State) (b : BitVec 64) : (s.setFloat b).raw = s.raw := rfl
@[simp] theorem State.setFloat_held (s : State) (b : BitVec 64) : (s.setFloat b).held = s.held := rfl
@[simp] theorem State.setFloat_spal (s : State) (b : BitVec 64) : (s.setFloat b).spal = s.spal := rfl
@[simp] theorem State.setFloat_vm (s : State) (b : BitVec 64) : (s.setFloat b).vm = s.vm := rfl
@[simp] theorem State.setFloat_prev (s : State) (b : BitVec 64) : (s.setFloat b).prev = s.prev := rfl
@[simp] theorem State.setFloat_pix (s : State) (b : BitVec 64) : (s.setFloat b).pix = s.pix := rfl
@[simp] theorem State.setFloat_sink (s : State) (b : BitVec 64) : (s.setFloat b).sink = s.sink := rfl
@[simp] theorem State.setFloat_port (s : State) (b : BitVec 64) : (s.setFloat b).port = s.port := rfl

/-! ### `State.setRaw` -/

@[simp] theorem State.setRaw_x (s : State) (i : Slot) (v : Bool) : (s.setRaw i v).x = s.x := rfl
@[simp] theorem State.setRaw_unimp (s : State) (i : Slot) (v : Bool) : (s.setRaw i v).unimp = s.unimp := rfl
@[simp] theorem State.setRaw_flo (s : State) (i : Slot) (v : Bool) : (s.setRaw i v).flo = s.flo := rfl
@[simp] theorem State.setRaw_fhi (s : State) (i : Slot) (v : Bool) : (s.setRaw i v).fhi = s.fhi := rfl
@[simp] theorem State.setRaw_dout (s : State) (i : Slot) (v : Bool) : (s.setRaw i v).dout = s.dout := rfl
@[simp] theorem State.setRaw_ptrx (s : State) (i : Slot) (v : Bool) : (s.setRaw i v).ptrx = s.ptrx := rfl
@[simp] theorem State.setRaw_ptry (s : State) (i : Slot) (v : Bool) : (s.setRaw i v).ptry = s.ptry := rfl
@[simp] theorem State.setRaw_ptrb (s : State) (i : Slot) (v : Bool) : (s.setRaw i v).ptrb = s.ptrb := rfl
@[simp] theorem State.setRaw_raw (s : State) (i : Slot) (v : Bool) : (s.setRaw i v).raw = s.raw.set i.toNat v i.isLt := rfl
@[simp] theorem State.setRaw_held (s : State) (i : Slot) (v : Bool) : (s.setRaw i v).held = s.held := rfl
@[simp] theorem State.setRaw_spal (s : State) (i : Slot) (v : Bool) : (s.setRaw i v).spal = s.spal := rfl
@[simp] theorem State.setRaw_vm (s : State) (i : Slot) (v : Bool) : (s.setRaw i v).vm = s.vm := rfl
@[simp] theorem State.setRaw_prev (s : State) (i : Slot) (v : Bool) : (s.setRaw i v).prev = s.prev := rfl
@[simp] theorem State.setRaw_pix (s : State) (i : Slot) (v : Bool) : (s.setRaw i v).pix = s.pix := rfl
@[simp] theorem State.setRaw_sink (s : State) (i : Slot) (v : Bool) : (s.setRaw i v).sink = s.sink := rfl
@[simp] theorem State.setRaw_port (s : State) (i : Slot) (v : Bool) : (s.setRaw i v).port = s.port := rfl

/-! ### `State.setSpal` -/

@[simp] theorem State.setSpal_x (s : State) (i : PalIdx) (v : ColIdx) : (s.setSpal i v).x = s.x := rfl
@[simp] theorem State.setSpal_unimp (s : State) (i : PalIdx) (v : ColIdx) : (s.setSpal i v).unimp = s.unimp := rfl
@[simp] theorem State.setSpal_flo (s : State) (i : PalIdx) (v : ColIdx) : (s.setSpal i v).flo = s.flo := rfl
@[simp] theorem State.setSpal_fhi (s : State) (i : PalIdx) (v : ColIdx) : (s.setSpal i v).fhi = s.fhi := rfl
@[simp] theorem State.setSpal_dout (s : State) (i : PalIdx) (v : ColIdx) : (s.setSpal i v).dout = s.dout := rfl
@[simp] theorem State.setSpal_ptrx (s : State) (i : PalIdx) (v : ColIdx) : (s.setSpal i v).ptrx = s.ptrx := rfl
@[simp] theorem State.setSpal_ptry (s : State) (i : PalIdx) (v : ColIdx) : (s.setSpal i v).ptry = s.ptry := rfl
@[simp] theorem State.setSpal_ptrb (s : State) (i : PalIdx) (v : ColIdx) : (s.setSpal i v).ptrb = s.ptrb := rfl
@[simp] theorem State.setSpal_raw (s : State) (i : PalIdx) (v : ColIdx) : (s.setSpal i v).raw = s.raw := rfl
@[simp] theorem State.setSpal_held (s : State) (i : PalIdx) (v : ColIdx) : (s.setSpal i v).held = s.held := rfl
@[simp] theorem State.setSpal_spal (s : State) (i : PalIdx) (v : ColIdx) : (s.setSpal i v).spal = s.spal.set i.toNat v i.isLt := rfl
@[simp] theorem State.setSpal_vm (s : State) (i : PalIdx) (v : ColIdx) : (s.setSpal i v).vm = s.vm := rfl
@[simp] theorem State.setSpal_prev (s : State) (i : PalIdx) (v : ColIdx) : (s.setSpal i v).prev = s.prev := rfl
@[simp] theorem State.setSpal_pix (s : State) (i : PalIdx) (v : ColIdx) : (s.setSpal i v).pix = s.pix := rfl
@[simp] theorem State.setSpal_sink (s : State) (i : PalIdx) (v : ColIdx) : (s.setSpal i v).sink = s.sink := rfl
@[simp] theorem State.setSpal_port (s : State) (i : PalIdx) (v : ColIdx) : (s.setSpal i v).port = s.port := rfl

/-! ### `State.emit` -/

@[simp] theorem State.emit_x (s : State) (ts : List Token) : (s.emit ts).x = s.x := rfl
@[simp] theorem State.emit_unimp (s : State) (ts : List Token) : (s.emit ts).unimp = s.unimp := rfl
@[simp] theorem State.emit_flo (s : State) (ts : List Token) : (s.emit ts).flo = s.flo := rfl
@[simp] theorem State.emit_fhi (s : State) (ts : List Token) : (s.emit ts).fhi = s.fhi := rfl
@[simp] theorem State.emit_dout (s : State) (ts : List Token) : (s.emit ts).dout = s.dout := rfl
@[simp] theorem State.emit_ptrx (s : State) (ts : List Token) : (s.emit ts).ptrx = s.ptrx := rfl
@[simp] theorem State.emit_ptry (s : State) (ts : List Token) : (s.emit ts).ptry = s.ptry := rfl
@[simp] theorem State.emit_ptrb (s : State) (ts : List Token) : (s.emit ts).ptrb = s.ptrb := rfl
@[simp] theorem State.emit_raw (s : State) (ts : List Token) : (s.emit ts).raw = s.raw := rfl
@[simp] theorem State.emit_held (s : State) (ts : List Token) : (s.emit ts).held = s.held := rfl
@[simp] theorem State.emit_spal (s : State) (ts : List Token) : (s.emit ts).spal = s.spal := rfl
@[simp] theorem State.emit_vm (s : State) (ts : List Token) : (s.emit ts).vm = s.vm := rfl
@[simp] theorem State.emit_prev (s : State) (ts : List Token) : (s.emit ts).prev = s.prev := rfl
@[simp] theorem State.emit_pix (s : State) (ts : List Token) : (s.emit ts).pix = s.pix := rfl
@[simp] theorem State.emit_sink (s : State) (ts : List Token) : (s.emit ts).sink = s.sink ++ ts := rfl
@[simp] theorem State.emit_port (s : State) (ts : List Token) : (s.emit ts).port = s.port := rfl

/-! ### `present` -/

@[simp] theorem present_x (s : State) (w : Word) : (present w s).x = s.x := rfl
@[simp] theorem present_unimp (s : State) (w : Word) : (present w s).unimp = s.unimp := rfl
@[simp] theorem present_flo (s : State) (w : Word) : (present w s).flo = s.flo := rfl
@[simp] theorem present_fhi (s : State) (w : Word) : (present w s).fhi = s.fhi := rfl
@[simp] theorem present_dout (s : State) (w : Word) : (present w s).dout = s.dout := rfl
@[simp] theorem present_ptrx (s : State) (w : Word) : (present w s).ptrx = s.ptrx := rfl
@[simp] theorem present_ptry (s : State) (w : Word) : (present w s).ptry = s.ptry := rfl
@[simp] theorem present_ptrb (s : State) (w : Word) : (present w s).ptrb = s.ptrb := rfl
@[simp] theorem present_raw (s : State) (w : Word) : (present w s).raw = s.raw := rfl
@[simp] theorem present_held (s : State) (w : Word) : (present w s).held = s.held := rfl
@[simp] theorem present_spal (s : State) (w : Word) : (present w s).spal = s.spal := rfl
@[simp] theorem present_vm (s : State) (w : Word) : (present w s).vm = s.vm := rfl
@[simp] theorem present_prev (s : State) (w : Word) : (present w s).prev = s.prev := rfl
@[simp] theorem present_pix (s : State) (w : Word) : (present w s).pix = s.pix := rfl
@[simp] theorem present_sink (s : State) (w : Word) : (present w s).sink = s.sink := rfl
@[simp] theorem present_port (s : State) (w : Word) : (present w s).port = .command w :: s.port := rfl

/-! ### `resetBlock` -/

@[simp] theorem resetBlock_x (s : State) : (resetBlock s).x = State.reset.x := rfl
@[simp] theorem resetBlock_unimp (s : State) : (resetBlock s).unimp = State.reset.unimp := rfl
@[simp] theorem resetBlock_flo (s : State) : (resetBlock s).flo = State.reset.flo := rfl
@[simp] theorem resetBlock_fhi (s : State) : (resetBlock s).fhi = State.reset.fhi := rfl
@[simp] theorem resetBlock_dout (s : State) : (resetBlock s).dout = State.reset.dout := rfl
@[simp] theorem resetBlock_ptrx (s : State) : (resetBlock s).ptrx = State.reset.ptrx := rfl
@[simp] theorem resetBlock_ptry (s : State) : (resetBlock s).ptry = State.reset.ptry := rfl
@[simp] theorem resetBlock_ptrb (s : State) : (resetBlock s).ptrb = State.reset.ptrb := rfl
@[simp] theorem resetBlock_raw (s : State) : (resetBlock s).raw = State.reset.raw := rfl
@[simp] theorem resetBlock_held (s : State) : (resetBlock s).held = State.reset.held := rfl
@[simp] theorem resetBlock_spal (s : State) : (resetBlock s).spal = State.reset.spal := rfl
@[simp] theorem resetBlock_vm (s : State) : (resetBlock s).vm = s.vm := rfl
@[simp] theorem resetBlock_prev (s : State) : (resetBlock s).prev = s.prev := rfl
@[simp] theorem resetBlock_pix (s : State) : (resetBlock s).pix = s.pix := rfl
@[simp] theorem resetBlock_sink (s : State) : (resetBlock s).sink = s.sink := rfl
@[simp] theorem resetBlock_port (s : State) : (resetBlock s).port = s.port := rfl

end Sys2Proof.Machine
end

