-- ==== Sys2Proof/Laws/Ops.lean ====
section
/-! SUPPORT. What each shared operation on registers, arrays and memory can do, said once. -/

namespace Sys2Proof.Machine

/-! ## General registers -/

theorem getX_setX (s : State) (r q : Reg) (v : Word) :
    (s.setX r v).getX q = if q = r then v else s.getX q := by
  by_cases h : q = r
  · subst h; simp [State.getX]
  · have : r.toNat ≠ q.toNat := fun e => h (BitVec.eq_of_toNat_eq e.symm)
    simp [State.getX, h, this]

@[simp] theorem getX_setX_same (s : State) (r : Reg) (v : Word) : (s.setX r v).getX r = v := by
  simp [getX_setX]

theorem getX_setX_other {s : State} {r q : Reg} {v : Word} (h : q ≠ r) :
    (s.setX r v).getX q = s.getX q := by
  simp [getX_setX, h]

/-- `getX` reads the register file only. -/
theorem getX_congr {s t : State} (h : t.x = s.x) (r : Reg) : t.getX r = s.getX r := by
  simp [State.getX, h]

/-! ## Control registers -/

/-- `readCsr` reads the seven control registers only. -/
theorem readCsr_congr {s t : State} (c : Csr)
    (h : (t.unimp, t.flo, t.fhi, t.dout, t.ptrx, t.ptry, t.ptrb)
      = (s.unimp, s.flo, s.fhi, s.dout, s.ptrx, s.ptry, s.ptrb)) : readCsr c t = readCsr c s := by
  simp only [Prod.mk.injEq] at h
  cases c <;> simp [readCsr, statusWord, h]

@[simp] theorem readCsr_setX (c : Csr) (s : State) (r : Reg) (v : Word) :
    readCsr c (s.setX r v) = readCsr c s := readCsr_congr c rfl

/-- A write of a control register is read back, `STATUS` keeping bit 0 only (10_state.md R24). -/
theorem readCsr_writeCsr (c d : Csr) (v : Word) (s : State) :
    readCsr d (writeCsr c v s) =
      if d = c then (if c = .status then flagWord (v.getLsbD 0) else v) else readCsr d s := by
  cases c <;> cases d <;> rfl

/-- A write of a control register touches nothing but control registers. -/
theorem writeCsr_outside (c : Csr) (v : Word) (s : State) :
    (writeCsr c v s).x = s.x ∧ (writeCsr c v s).raw = s.raw ∧ (writeCsr c v s).held = s.held
      ∧ (writeCsr c v s).spal = s.spal ∧ (writeCsr c v s).vm = s.vm ∧ (writeCsr c v s).prev = s.prev
      ∧ (writeCsr c v s).pix = s.pix ∧ (writeCsr c v s).sink = s.sink
      ∧ (writeCsr c v s).port = s.port := by
  cases c <;> exact ⟨rfl, rfl, rfl, rfl, rfl, rfl, rfl, rfl, rfl⟩

theorem flagWord_getLsbD_zero (v : Word) : flagWord (v.getLsbD 0) = v &&& 1 := by
  apply BitVec.eq_of_getLsbD_eq
  intro i hi
  cases h : v.getLsbD 0 <;> rcases i with _ | i <;> simp_all [flagWord]

/-- The implemented numbers are exactly 0 to 6 (10_state.md R14, R15). -/
theorem csrOf_eq_none_iff (n : BitVec 16) : csrOf n = none ↔ 7 ≤ n.toNat := by
  unfold csrOf
  split <;> simp_all
  omega

/-! ## Float staging value -/

theorem getLsbD_joinWords (hi lo : Word) (i : Nat) :
    (joinWords hi lo).getLsbD i = if i < 32 then lo.getLsbD i else hi.getLsbD (i - 32) := by
  unfold joinWords
  simp only [BitVec.getLsbD_or, BitVec.getLsbD_shiftLeft, BitVec.getLsbD_setWidth]
  by_cases h : i < 32
  · simp [h]; omega
  · by_cases h2 : i < 64
    · have : lo.getLsbD i = false := BitVec.getLsbD_of_ge _ _ (by omega)
      simp [h, h2, this]; omega
    · have : hi.getLsbD (i - 32) = false := BitVec.getLsbD_of_ge _ _ (by omega)
      simp [h, h2, this]

@[simp] theorem joinWords_high_low (b : BitVec 64) : joinWords (highWord b) (lowWord b) = b := by
  apply BitVec.eq_of_getLsbD_eq
  intro i hi
  rw [getLsbD_joinWords]
  split
  · simp only [lowWord, BitVec.getLsbD_extractLsb', Nat.zero_add]
    simp [*]
  · have : i - 32 < 32 := by omega
    simp only [highWord, BitVec.getLsbD_extractLsb', this, decide_true, Bool.true_and]
    congr 1
    omega

@[simp] theorem float_setFloat (s : State) (b : BitVec 64) : (s.setFloat b).float = b := by
  simp [State.float]

/-- `F = FHI ++ FLO` as a number (10_state.md R19). -/
theorem toNat_joinWords (hi lo : Word) :
    (joinWords hi lo).toNat = hi.toNat * 2 ^ 32 + lo.toNat := by
  have hhi := hi.isLt
  have hlo := lo.isLt
  have hshift : (hi.setWidth 64 <<< 32).toNat = hi.toNat <<< 32 := by
    simp [BitVec.toNat_shiftLeft, Nat.shiftLeft_eq]
    omega
  rw [joinWords, BitVec.toNat_or, hshift, BitVec.toNat_setWidth,
    Nat.mod_eq_of_lt (show lo.toNat < 2 ^ 64 by omega), ← Nat.shiftLeft_add_eq_or_of_lt hlo,
    Nat.shiftLeft_eq]

theorem toNat_highWord (b : BitVec 64) : (highWord b).toNat = b.toNat / 2 ^ 32 := by
  have := b.isLt
  simp [highWord, BitVec.extractLsb'_toNat, Nat.shiftRight_eq_div_pow]
  omega

theorem toNat_lowWord (b : BitVec 64) : (lowWord b).toNat = b.toNat % 2 ^ 32 := by
  simp [lowWord, BitVec.extractLsb'_toNat]

theorem highWord_joinWords (hi lo : Word) : highWord (joinWords hi lo) = hi := by
  apply BitVec.eq_of_getLsbD_eq
  intro i hi
  simp [highWord, getLsbD_joinWords, hi]

theorem lowWord_joinWords (hi lo : Word) : lowWord (joinWords hi lo) = lo := by
  apply BitVec.eq_of_getLsbD_eq
  intro i hi
  simp [lowWord, getLsbD_joinWords, hi]

/-! ## Latch and palette arrays -/

theorem getRaw_setRaw (s : State) (i j : Slot) (v : Bool) :
    (s.setRaw i v).getRaw j = if j = i then v else s.getRaw j := by
  by_cases h : j = i
  · subst h; simp [State.getRaw]
  · have : i.toNat ≠ j.toNat := fun e => h (BitVec.eq_of_toNat_eq e.symm)
    simp [State.getRaw, h, this]

theorem palGet_set (p : Vector (BitVec 4) 16) (i j : PalIdx) (v : ColIdx) :
    palGet (p.set i.toNat v i.isLt) j = if j = i then v else palGet p j := by
  by_cases h : j = i
  · subst h; simp [palGet]
  · have : i.toNat ≠ j.toNat := fun e => h (BitVec.eq_of_toNat_eq e.symm)
    simp [palGet, h, this]

theorem getSpal_setSpal (s : State) (i j : PalIdx) (v : ColIdx) :
    (s.setSpal i v).getSpal j = if j = i then v else s.getSpal j := palGet_set s.spal i j v

@[simp] theorem palGet_identityPalette (i : PalIdx) : palGet identityPalette i = i := by
  revert i; decide

/-- What `LUPD` leaves in each counter (44_input_latch.md R143). -/
theorem getHeld_ofFn (s : State) (f : Fin 64 → Word) (i : Slot) :
    State.getHeld { s with held := Vector.ofFn f } i = f ⟨i.toNat, i.isLt⟩ := by
  simp [State.getHeld]

end Sys2Proof.Machine
end

