-- ==== Sys2Proof/Laws/Exec.lean ====
section
/-! SUPPORT. The meaning of each command as one equation, and what a step can do. -/

namespace Sys2Proof.Machine

@[simp] theorem exec_nop (s : State) :
    exec .nop s =
      .next s := rfl

@[simp] theorem exec_lih (rd : Reg) (imm : BitVec 16) (s : State) :
    exec (.lih rd imm) s =
      .next (s.setX rd (joinHalves imm 0)) := rfl

@[simp] theorem exec_lil (rd : Reg) (imm : BitVec 16) (s : State) :
    exec (.lil rd imm) s =
      .next (s.setX rd (joinHalves (highHalf (s.getX rd)) imm)) := rfl

@[simp] theorem exec_mov (rd ra : Reg) (s : State) :
    exec (.mov rd ra) s =
      .next (s.setX rd (s.getX ra)) := rfl

@[simp] theorem exec_f2x (rd : Reg) (s : State) :
    exec (.f2x rd) s =
      .next (s.setX rd (toFixed s.float)) := rfl

@[simp] theorem exec_x2f (ra : Reg) (s : State) :
    exec (.x2f ra) s =
      .next (s.setFloat (fromFixed (s.getX ra))) := rfl

@[simp] theorem exec_fclamp (s : State) :
    exec .fclamp s =
      .next (s.setFloat (fromFixed (toFixed s.float))) := rfl

@[simp] theorem exec_sgn (rd ra : Reg) (s : State) :
    exec (.sgn rd ra) s =
      .next (s.setX rd (signFixed (s.getX ra))) := rfl

@[simp] theorem exec_sqrt (rd ra : Reg) (s : State) :
    exec (.sqrt rd ra) s =
      .next (s.setX rd (sqrtFixed (s.getX ra))) := rfl

@[simp] theorem exec_band (rd ra rb : Reg) (s : State) :
    exec (.band rd ra rb) s =
      .next (s.setX rd (packBits (bits16 (s.getX ra) &&& bits16 (s.getX rb)))) := rfl

@[simp] theorem exec_bor (rd ra rb : Reg) (s : State) :
    exec (.bor rd ra rb) s =
      .next (s.setX rd (packBits (bits16 (s.getX ra) ||| bits16 (s.getX rb)))) := rfl

@[simp] theorem exec_bxor (rd ra rb : Reg) (s : State) :
    exec (.bxor rd ra rb) s =
      .next (s.setX rd (packBits (bits16 (s.getX ra) ^^^ bits16 (s.getX rb)))) := rfl

@[simp] theorem exec_bnot (rd ra : Reg) (s : State) :
    exec (.bnot rd ra) s =
      .next (s.setX rd (packBits (~~~ bits16 (s.getX ra)))) := rfl

@[simp] theorem exec_shl (rd ra rb : Reg) (s : State) :
    exec (.shl rd ra rb) s =
      .next (s.setX rd (packBits (sh16 (tr16 (s.getX ra)) (tr16 (s.getX rb))))) := rfl

@[simp] theorem exec_shr (rd ra rb : Reg) (s : State) :
    exec (.shr rd ra rb) s =
      .next (s.setX rd (packBits (sh16 (tr16 (s.getX ra)) (-tr16 (s.getX rb))))) := rfl

@[simp] theorem exec_cos (rd ra : Reg) (s : State) :
    exec (.cos rd ra) s =
      .next (s.setX rd (cosTurns (s.getX ra))) := rfl

@[simp] theorem exec_sin (rd ra : Reg) (s : State) :
    exec (.sin rd ra) s =
      .next (s.setX rd (sinTurns (s.getX ra))) := rfl

@[simp] theorem exec_atan2 (rd ra rb : Reg) (s : State) :
    exec (.atan2 rd ra rb) s =
      .next (s.setX rd (BitVec.ofNat 32 (atanT (s32 (s.getX ra)) (s32 (s.getX rb))))) := rfl

@[simp] theorem exec_bset (slot : Slot) (v : Bool) (s : State) :
    exec (.bset slot v) s =
      .next (s.setRaw slot v) := rfl

@[simp] theorem exec_lupd (s : State) :
    exec .lupd s =
      .next { s with held := Vector.ofFn fun i => latchSlot s.raw[i] s.held[i] } := rfl

@[simp] theorem exec_btn (rd : Reg) (slot : Slot) (s : State) :
    exec (.btn rd slot) s =
      .next (s.setX rd (flagWord (pressed s slot))) := rfl

@[simp] theorem exec_btnp (rd : Reg) (slot : Slot) (s : State) :
    exec (.btnp rd slot) s =
      .next (s.setX rd (flagWord (pressedEdge s slot))) := rfl

@[simp] theorem exec_btnm (rd : Reg) (s : State) :
    exec (.btnm rd) s =
      .next (s.setX rd (slotMask (pressed s))) := rfl

@[simp] theorem exec_btnpm (rd : Reg) (s : State) :
    exec (.btnpm rd) s =
      .next (s.setX rd (slotMask (pressedEdge s))) := rfl

@[simp] theorem exec_held (rd : Reg) (slot : Slot) (s : State) :
    exec (.held rd slot) s =
      .next (s.setX rd (s.getHeld slot)) := rfl

@[simp] theorem exec_spalw (idx : PalIdx) (val : ColIdx) (s : State) :
    exec (.spalw idx val) s =
      .next (s.setSpal idx val) := rfl

@[simp] theorem exec_spalr (rd : Reg) (idx : PalIdx) (s : State) :
    exec (.spalr rd idx) s =
      .next (s.setX rd ((s.getSpal idx).setWidth 32)) := rfl

@[simp] theorem exec_palrst (s : State) :
    exec .palrst s =
      .next { s with spal := identityPalette } := rfl

@[simp] theorem exec_rtrue (s : State) :
    exec .rtrue s =
      .next { s with pix := Memory.ofBytes 0 (framePixels Config.master s.spal s.readFb) } := rfl

@[simp] theorem exec_rtext (p : Bool) (s : State) :
    exec (.rtext p) s =
      .next (s.emit (frameTokens Config.term16 s.spal s.readFb fun r => p && rowSame s.readFb s.readPrev r)) := rfl

/-- `CSRR` of an implemented number. -/
theorem exec_csrr_some {csr : BitVec 16} {c : Csr} (h : csrOf csr = some c) (rd : Reg) (s : State) :
    exec (.csrr rd csr) s = .next (s.setX rd (readCsr c s)) := by
  simp [exec, execCsrr, h]

/-- `CSRR` of an unimplemented number. -/
theorem exec_csrr_none {csr : BitVec 16} (h : csrOf csr = none) (rd : Reg) (s : State) :
    exec (.csrr rd csr) s = .next (s.setX rd 0).setUnimp := by
  simp [exec, execCsrr, h]

/-- `CSRW` of an implemented number. -/
theorem exec_csrw_some {csr : BitVec 16} {c : Csr} (h : csrOf csr = some c) (ra : Reg) (s : State) :
    exec (.csrw csr ra) s = .next (writeCsr c (s.getX ra) s) := by
  simp [exec, execCsrw, h]

/-- `CSRW` of an unimplemented number. -/
theorem exec_csrw_none {csr : BitVec 16} (h : csrOf csr = none) (ra : Reg) (s : State) :
    exec (.csrw csr ra) s = .next s.setUnimp := by
  simp [exec, execCsrw, h]

/-! ## A step, by what the host does next -/

theorem step_idle {s : State} (h : s.port = []) : step s = .next s := by
  simp [step, nextAction, idle, h]

theorem step_external {s : State} {e : External} {rest : List HostAction}
    (h : s.port = .external e :: rest) : step s = .next (external e { s with port := rest }) := by
  simp [step, nextAction, h]

theorem step_reserved {s : State} {w : Word} {e : Reject} {rest : List HostAction}
    (h : s.port = .command w :: rest) (hd : decode w = .error e) :
    step s = .next (illegal { s with port := rest }) := by
  simp [step, nextAction, h, hd]

theorem step_command {s : State} {w : Word} {i : Instr} {rest : List HostAction}
    (h : s.port = .command w :: rest) (hd : decode w = .ok i) :
    step s = exec i { s with port := rest } := by
  simp [step, nextAction, h, hd]

/-- Everything a step can do: nothing, an outside action, a reserved word, a command. -/
theorem step_cases {s t : State} (h : step s = .next t) :
    (s.port = [] ∧ t = s)
      ∨ (∃ e rest, s.port = .external e :: rest ∧ t = external e { s with port := rest })
      ∨ (∃ w e rest, s.port = .command w :: rest ∧ decode w = .error e
          ∧ t = illegal { s with port := rest })
      ∨ ∃ w i rest, s.port = .command w :: rest ∧ decode w = .ok i
          ∧ exec i { s with port := rest } = .next t := by
  match hp : s.port with
  | [] =>
    rw [step_idle hp] at h
    injection h with h
    exact .inl ⟨rfl, h.symm⟩
  | .external e :: rest =>
    rw [step_external hp] at h
    injection h with h
    exact .inr (.inl ⟨e, rest, rfl, h.symm⟩)
  | .command w :: rest =>
    cases hd : decode w with
    | error e =>
      rw [step_reserved hp hd] at h
      injection h with h
      exact .inr (.inr (.inl ⟨w, e, rest, rfl, hd, h.symm⟩))
    | ok i => exact .inr (.inr (.inr ⟨w, i, rest, rfl, hd, step_command hp hd ▸ h⟩))

end Sys2Proof.Machine
end

