-- ==== Sys2Proof/Laws/Fields.lean ====
section
/-! SUPPORT. The fields of a word that is put together from fields. -/

namespace Sys2Proof

theorem getLsbD_place {n : Nat} (v : BitVec n) (a i : Nat) :
    (place v a).getLsbD i = (decide (i < 32) && decide (a ≤ i) && v.getLsbD (i - a)) := by
  unfold place
  rw [BitVec.getLsbD_shiftLeft, BitVec.getLsbD_setWidth]
  by_cases h : i < 32
  · by_cases h2 : a ≤ i
    · have h3 : ¬ i < a := by omega
      have h4 : i - a < 32 := by omega
      simp [h, h2, h3, h4]
    · have h3 : i < a := by omega
      simp [h2, h3]
  · simp [h]

section Reg
variable (op : BitVec 8) (rd ra rb : Reg)

@[simp] theorem opOf_wordReg : opOf (wordReg op rd ra rb) = op := by
  apply BitVec.eq_of_getLsbD_eq; intro i hi
  simp only [opOf, wordReg, BitVec.getLsbD_extractLsb', BitVec.getLsbD_or, getLsbD_place]
  interval_cases i <;> simp

@[simp] theorem rdOf_wordReg : rdOf (wordReg op rd ra rb) = rd := by
  apply BitVec.eq_of_getLsbD_eq; intro i hi
  simp only [rdOf, wordReg, BitVec.getLsbD_extractLsb', BitVec.getLsbD_or, getLsbD_place]
  interval_cases i <;> simp

@[simp] theorem raOf_wordReg : raOf (wordReg op rd ra rb) = ra := by
  apply BitVec.eq_of_getLsbD_eq; intro i hi
  simp only [raOf, wordReg, BitVec.getLsbD_extractLsb', BitVec.getLsbD_or, getLsbD_place]
  interval_cases i <;> simp

@[simp] theorem rbOf_wordReg : rbOf (wordReg op rd ra rb) = rb := by
  apply BitVec.eq_of_getLsbD_eq; intro i hi
  simp only [rbOf, wordReg, BitVec.getLsbD_extractLsb', BitVec.getLsbD_or, getLsbD_place]
  interval_cases i <;> simp

@[simp] theorem low12_wordReg : (immOf (wordReg op rd ra rb)).extractLsb' 0 12 = 0#12 := by
  apply BitVec.eq_of_getLsbD_eq; intro i hi
  simp only [immOf, wordReg, BitVec.getLsbD_extractLsb', BitVec.getLsbD_or, getLsbD_place]
  interval_cases i <;> simp

@[simp] theorem immOf_wordReg_zero : immOf (wordReg op rd ra 0#4) = 0#16 := by
  apply BitVec.eq_of_getLsbD_eq; intro i hi
  simp only [immOf, wordReg, BitVec.getLsbD_extractLsb', BitVec.getLsbD_or, getLsbD_place]
  interval_cases i <;> simp

end Reg

section Imm
variable (op : BitVec 8) (rd ra : Reg) (imm : BitVec 16)

@[simp] theorem opOf_wordImm : opOf (wordImm op rd ra imm) = op := by
  apply BitVec.eq_of_getLsbD_eq; intro i hi
  simp only [opOf, wordImm, BitVec.getLsbD_extractLsb', BitVec.getLsbD_or, getLsbD_place]
  interval_cases i <;> simp

@[simp] theorem rdOf_wordImm : rdOf (wordImm op rd ra imm) = rd := by
  apply BitVec.eq_of_getLsbD_eq; intro i hi
  simp only [rdOf, wordImm, BitVec.getLsbD_extractLsb', BitVec.getLsbD_or, getLsbD_place]
  interval_cases i <;> simp

@[simp] theorem raOf_wordImm : raOf (wordImm op rd ra imm) = ra := by
  apply BitVec.eq_of_getLsbD_eq; intro i hi
  simp only [raOf, wordImm, BitVec.getLsbD_extractLsb', BitVec.getLsbD_or, getLsbD_place]
  interval_cases i <;> simp

@[simp] theorem immOf_wordImm : immOf (wordImm op rd ra imm) = imm := by
  apply BitVec.eq_of_getLsbD_eq; intro i hi
  simp only [immOf, wordImm, BitVec.getLsbD_extractLsb', BitVec.getLsbD_or, getLsbD_place]
  interval_cases i <;> simp

end Imm

/-- The bytes of a word put back together are the word (30_encoding.md R72). -/
theorem wordOfBytes_bytesOfWord (w : Word) :
    wordOfBytes (w.extractLsb' 0 8) (w.extractLsb' 8 8) (w.extractLsb' 16 8) (w.extractLsb' 24 8)
      = w := by
  apply BitVec.eq_of_getLsbD_eq; intro i hi
  simp only [wordOfBytes, BitVec.getLsbD_extractLsb', BitVec.getLsbD_or, getLsbD_place]
  interval_cases i <;> simp

end Sys2Proof
end

