-- ==== Sys2Proof/Laws/Latch.lean ====
section
/-! SUPPORT. The latch update and the bulk masks, slot by slot. -/

namespace Sys2Proof.Machine

/-- `LUPD` on one slot (44_input_latch.md R143). -/
theorem getHeld_latched (s : State) (i : Slot) :
    State.getHeld { s with held := Vector.ofFn fun j => latchSlot s.raw[j] s.held[j] } i
      = latchSlot (s.getRaw i) (s.getHeld i) := by
  simp [State.getHeld, State.getRaw]

/-- `LUPD` with its counters under a name, so that nothing unfolds 64 of them. -/
theorem exec_lupd_held (s : State) : ∃ h, exec .lupd s = .next { s with held := h }
    ∧ ∀ i, State.getHeld { s with held := h } i = latchSlot (s.getRaw i) (s.getHeld i) := by
  generalize hh : (Vector.ofFn fun j : Fin 64 => latchSlot s.raw[j] s.held[j]) = h
  refine ⟨h, ?_, fun i => ?_⟩
  · rw [← hh]; exact exec_lupd s
  · rw [← hh]; exact getHeld_latched s i

/-- A mask built bit by bit over the first `n` slots. -/
theorem slotMask_fold (p : Slot → Bool) (n : Nat) (hn : n ≤ 16) :
    ∃ m : Nat, (List.range n).foldl
        (fun m i => if p (BitVec.ofNat 6 i) then m + BitVec.ofNat 32 (2 ^ i) else m) (0 : Word)
          = BitVec.ofNat 32 m ∧ m < 2 ^ n ∧
        ∀ k, m.testBit k = (decide (k < n) && p (BitVec.ofNat 6 k)) := by
  induction n with
  | zero => exact ⟨0, by simp⟩
  | succ n ih =>
    obtain ⟨m, hm, hlt, hbit⟩ := ih (by omega)
    rw [List.range_succ, List.foldl_append, hm]
    simp only [List.foldl_cons, List.foldl_nil]
    cases hp : p (BitVec.ofNat 6 n)
    · refine ⟨m, by simp, by omega, fun k => ?_⟩
      rw [hbit]
      by_cases hk : k = n
      · subst hk; simp [hp]
      · have : (k < n + 1) ↔ k < n := by omega
        simp [this]
    · refine ⟨2 ^ n + m, by simp [BitVec.ofNat_add, BitVec.add_comm], by rw [Nat.pow_succ]; omega,
        fun k => ?_⟩
      rcases Nat.lt_trichotomy k n with hk | hk | hk
      · rw [Nat.testBit_two_pow_add_gt hk, hbit]
        have : k < n + 1 := by omega
        simp [hk, this]
      · subst hk
        rw [Nat.testBit_two_pow_add_eq, hbit]
        simp [hp]
      · have h1 : 2 ^ n + m < 2 ^ k := by
          have := Nat.pow_le_pow_right (n := 2) (by omega) (show n + 1 ≤ k by omega)
          rw [Nat.pow_succ] at this
          omega
        have h2 : ¬ k < n + 1 := by omega
        simp [Nat.testBit_lt_two_pow h1, h2]

/-- Bit `k` of a bulk mask is the predicate of slot `k` below 16 and 0 above (R148). -/
theorem getLsbD_slotMask (p : Slot → Bool) (k : Nat) :
    (slotMask p).getLsbD k = (decide (k < 16) && p (BitVec.ofNat 6 k)) := by
  obtain ⟨m, hm, -, hbit⟩ := slotMask_fold p 16 (Nat.le_refl 16)
  rw [slotMask, hm, BitVec.getLsbD_ofNat, hbit]
  by_cases h : k < 16
  · have : k < 32 := by omega
    simp [h, this]
  · simp [h]

end Sys2Proof.Machine
end

