-- ==== Sys2Proof/Laws/PerInstr.lean ====
section
/-! SUPPORT. Statements made per constructor of `Instr`. -/

namespace Sys2Proof.Laws.OperandsFit

/-- The written form of the command passes the assembler's check (30_encoding.md R64, R70). -/
def Statement (i : Instr) : Prop := i.wellFormed = true

theorem operandsFit_nil : operandsFit [] [] = true := rfl

theorem operandsFit_cons {k : OperandKind} {n : Nat} {ks : List OperandKind} {ns : List Nat}
    (h : n < k.limit) (hs : operandsFit ks ns = true) : operandsFit (k :: ks) (n :: ns) = true := by
  simp [operandsFit, h, hs]

theorem nop : Statement (.nop) :=
  operandsFit_nil
theorem lih (rd : Reg) (imm : BitVec 16) : Statement (.lih rd imm) :=
  operandsFit_cons rd.isLt (operandsFit_cons imm.isLt operandsFit_nil)
theorem lil (rd : Reg) (imm : BitVec 16) : Statement (.lil rd imm) :=
  operandsFit_cons rd.isLt (operandsFit_cons imm.isLt operandsFit_nil)
theorem mov (rd : Reg) (ra : Reg) : Statement (.mov rd ra) :=
  operandsFit_cons rd.isLt (operandsFit_cons ra.isLt operandsFit_nil)
theorem csrr (rd : Reg) (csr : BitVec 16) : Statement (.csrr rd csr) :=
  operandsFit_cons rd.isLt (operandsFit_cons csr.isLt operandsFit_nil)
theorem csrw (csr : BitVec 16) (ra : Reg) : Statement (.csrw csr ra) :=
  operandsFit_cons csr.isLt (operandsFit_cons ra.isLt operandsFit_nil)
theorem f2x (rd : Reg) : Statement (.f2x rd) :=
  operandsFit_cons rd.isLt operandsFit_nil
theorem x2f (ra : Reg) : Statement (.x2f ra) :=
  operandsFit_cons ra.isLt operandsFit_nil
theorem fclamp : Statement (.fclamp) :=
  operandsFit_nil
theorem sgn (rd : Reg) (ra : Reg) : Statement (.sgn rd ra) :=
  operandsFit_cons rd.isLt (operandsFit_cons ra.isLt operandsFit_nil)
theorem sqrt (rd : Reg) (ra : Reg) : Statement (.sqrt rd ra) :=
  operandsFit_cons rd.isLt (operandsFit_cons ra.isLt operandsFit_nil)
theorem band (rd : Reg) (ra : Reg) (rb : Reg) : Statement (.band rd ra rb) :=
  operandsFit_cons rd.isLt (operandsFit_cons ra.isLt (operandsFit_cons rb.isLt operandsFit_nil))
theorem bor (rd : Reg) (ra : Reg) (rb : Reg) : Statement (.bor rd ra rb) :=
  operandsFit_cons rd.isLt (operandsFit_cons ra.isLt (operandsFit_cons rb.isLt operandsFit_nil))
theorem bxor (rd : Reg) (ra : Reg) (rb : Reg) : Statement (.bxor rd ra rb) :=
  operandsFit_cons rd.isLt (operandsFit_cons ra.isLt (operandsFit_cons rb.isLt operandsFit_nil))
theorem bnot (rd : Reg) (ra : Reg) : Statement (.bnot rd ra) :=
  operandsFit_cons rd.isLt (operandsFit_cons ra.isLt operandsFit_nil)
theorem shl (rd : Reg) (ra : Reg) (rb : Reg) : Statement (.shl rd ra rb) :=
  operandsFit_cons rd.isLt (operandsFit_cons ra.isLt (operandsFit_cons rb.isLt operandsFit_nil))
theorem shr (rd : Reg) (ra : Reg) (rb : Reg) : Statement (.shr rd ra rb) :=
  operandsFit_cons rd.isLt (operandsFit_cons ra.isLt (operandsFit_cons rb.isLt operandsFit_nil))
theorem cos (rd : Reg) (ra : Reg) : Statement (.cos rd ra) :=
  operandsFit_cons rd.isLt (operandsFit_cons ra.isLt operandsFit_nil)
theorem sin (rd : Reg) (ra : Reg) : Statement (.sin rd ra) :=
  operandsFit_cons rd.isLt (operandsFit_cons ra.isLt operandsFit_nil)
theorem atan2 (rd : Reg) (ra : Reg) (rb : Reg) : Statement (.atan2 rd ra rb) :=
  operandsFit_cons rd.isLt (operandsFit_cons ra.isLt (operandsFit_cons rb.isLt operandsFit_nil))
theorem bset (slot : Slot) (v : Bool) : Statement (.bset slot v) :=
  operandsFit_cons slot.isLt (operandsFit_cons v.toNat_lt operandsFit_nil)
theorem lupd : Statement (.lupd) :=
  operandsFit_nil
theorem btn (rd : Reg) (slot : Slot) : Statement (.btn rd slot) :=
  operandsFit_cons rd.isLt (operandsFit_cons slot.isLt operandsFit_nil)
theorem btnp (rd : Reg) (slot : Slot) : Statement (.btnp rd slot) :=
  operandsFit_cons rd.isLt (operandsFit_cons slot.isLt operandsFit_nil)
theorem btnm (rd : Reg) : Statement (.btnm rd) :=
  operandsFit_cons rd.isLt operandsFit_nil
theorem btnpm (rd : Reg) : Statement (.btnpm rd) :=
  operandsFit_cons rd.isLt operandsFit_nil
theorem held (rd : Reg) (slot : Slot) : Statement (.held rd slot) :=
  operandsFit_cons rd.isLt (operandsFit_cons slot.isLt operandsFit_nil)
theorem spalw (idx : PalIdx) (val : ColIdx) : Statement (.spalw idx val) :=
  operandsFit_cons idx.isLt (operandsFit_cons val.isLt operandsFit_nil)
theorem spalr (rd : Reg) (idx : PalIdx) : Statement (.spalr rd idx) :=
  operandsFit_cons rd.isLt (operandsFit_cons idx.isLt operandsFit_nil)
theorem palrst : Statement (.palrst) :=
  operandsFit_nil
theorem rtrue : Statement (.rtrue) :=
  operandsFit_nil
theorem rtext (p : Bool) : Statement (.rtext p) :=
  operandsFit_cons p.toNat_lt operandsFit_nil

end Sys2Proof.Laws.OperandsFit
end

