-- ==== Sys2Proof/Laws/Renderer.lean ====
section
/-! SUPPORT. The bytes of a rendered frame and the tokens of a text row. -/

namespace Sys2Proof.Machine

section TrueColour
variable (master : BitVec 4 → BitVec 24) (p : Vector (BitVec 4) 16)

@[simp] theorem length_bytePixels (b : Byte) : (bytePixels master p b).length = 6 := rfl

/-- Byte `6*b + j` of a list made of blocks of six. -/
theorem getD_flatMap_six {f : Nat → List Byte} (hf : ∀ b, (f b).length = 6) (n lo b j : Nat)
    (hb : b < n) (hj : j < 6) (d : Byte) :
    ((List.range' lo n).flatMap f).getD (6 * b + j) d = (f (lo + b)).getD j d := by
  induction n generalizing lo b with
  | zero => omega
  | succ n ih =>
    rw [List.range'_succ, List.flatMap_cons]
    rcases b with _ | b
    · rw [List.getD_append _ _ _ _ (by rw [hf]; omega)]
      simp
    · rw [List.getD_append_right _ _ _ _ (by rw [hf]; omega), hf,
        show 6 * (b + 1) + j - 6 = 6 * b + j by omega, ih (lo + 1) b (by omega),
        show lo + 1 + b = lo + (b + 1) by omega]

theorem length_flatMap_six {f : Nat → List Byte} (hf : ∀ b, (f b).length = 6) (l : List Nat) :
    (l.flatMap f).length = 6 * l.length := by
  induction l with
  | nil => rfl
  | cons b l ih => rw [List.flatMap_cons, List.length_append, hf, ih, List.length_cons]; omega

theorem length_framePixels (fb : Nat → Byte) : (framePixels master p fb).length = 49152 := by
  rw [framePixels, length_flatMap_six (fun b => length_bytePixels master p (fb b)),
    List.length_range]

/-- The six bytes of framebuffer byte `b` in the frame (45_renderer.md R165). -/
theorem getD_framePixels (fb : Nat → Byte) {b j : Nat} (hb : b < 8192) (hj : j < 6) (d : Byte) :
    (framePixels master p fb).getD (6 * b + j) d = (bytePixels master p (fb b)).getD j d := by
  rw [framePixels, List.range_eq_range',
    getD_flatMap_six (fun b => length_bytePixels master p (fb b)) 8192 0 b j hb hj, Nat.zero_add]

/-- `PIX` after `RTRUE`, byte by byte. -/
theorem read_framePixels (fb : Nat → Byte) {b j : Nat} (hb : b < 8192) (hj : j < 6) :
    Memory.read (Memory.ofBytes 0 (framePixels master p fb)) (6 * b + j)
      = (bytePixels master p (fb b)).getD j Memory.blank := by
  rw [Memory.read_ofBytes, if_pos (Nat.zero_le _), Nat.sub_zero, getD_framePixels master p fb hb hj]

end TrueColour

/-- `RTRUE` with its frame under a name, so that nothing unfolds 49152 bytes. -/
theorem exec_rtrue_pix (s : State) : ∃ m, exec .rtrue s = .next { s with pix := m }
    ∧ m = Memory.ofBytes 0 (framePixels Config.master s.spal s.readFb) := by
  generalize hm : Memory.ofBytes 0 (framePixels Config.master s.spal s.readFb) = m
  refine ⟨m, ?_, rfl⟩
  rw [← hm]; exact exec_rtrue s

/-! ## Text rows -/

@[simp] theorem cellTokens_nil (lf lb : Option (BitVec 8)) : cellTokens lf lb [] = [] := rfl

theorem cellTokens_cons (lf lb : Option (BitVec 8)) (c : Cell) (cs : List Cell) :
    cellTokens lf lb (c :: cs) = (if some c.fg = lf then [] else [.fg c.fg])
      ++ (if some c.bg = lb then [] else [.bg c.bg])
      ++ .glyph c.glyph :: cellTokens (some c.fg) (some c.bg) cs := rfl

/-- A row of the snapshot test holds exactly when all its 128 bytes agree (R168). -/
theorem rowSame_iff (fb prev : Nat → Byte) (r : Fin 64) :
    rowSame fb prev r = true ↔ ∀ j, j < 128 → fb (128 * r.val + j) = prev (128 * r.val + j) := by
  simp [rowSame]

end Sys2Proof.Machine
end

