-- ==== Sys2Proof/Tests/Slice0.lean ====
section
/-! SUPPORT. Tests. Expected values come from 95_test_vectors.md (part and row in the comment) or are
written out from the encodings of 30_encoding.md; then the witnesses: concrete states and operands that
meet the hypotheses of each obligation that has some. -/

namespace Sys2Proof.Tests

open Sys2Proof Sys2Proof.Machine

/-! ## Small states and what one command leaves -/

/-- The reset state with `x1` and `x2` given. -/
def two (a b : Word) : State := (State.reset.setX 1 a).setX 2 b

/-- The reset state with a float staged. -/
def staged (f : BitVec 64) : State := State.reset.setFloat f

/-- The reset state with one slot's raw flag and counter given. -/
def slotted (i : Slot) (r : Bool) (h : Word) : State :=
  { State.reset.setRaw i r with held := State.reset.held.set i.toNat h i.isLt }

/-- The state after a command. -/
def after (i : Instr) (s : State) : Option State :=
  match exec i s with
  | .next t => some t
  | _ => none

/-- A register after a command. -/
def reg (i : Instr) (s : State) (r : Reg) : Option Word := (after i s).map fun t => t.getX r

/-- A control register after a command. -/
def csr (i : Instr) (s : State) (c : Csr) : Option Word := (after i s).map fun t => readCsr c t

/-- `F` after a command. -/
def flt (i : Instr) (s : State) : Option (BitVec 64) := (after i s).map fun t => t.float

/-- The reset state with one action at the port. -/
def ported (a : HostAction) : State := { State.reset with port := [a] }

/-! ## Well-formedness: one line refused by each check (R64, R70) -/

theorem test_wf_accepts_fitting_line : (Line.mk .lih [15, 65535]).wellFormed = true := by decide
theorem test_wf_refuses_missing_operand : (Line.mk .mov [1]).wellFormed = false := by decide
theorem test_wf_refuses_extra_operand : (Line.mk .nop [0]).wellFormed = false := by decide
theorem test_wf_refuses_register_16 : (Line.mk .f2x [16]).wellFormed = false := by decide
theorem test_wf_refuses_long_immediate : (Line.mk .lil [0, 65536]).wellFormed = false := by decide
theorem test_wf_refuses_long_csr : (Line.mk .csrw [65536, 0]).wellFormed = false := by decide
theorem test_wf_refuses_slot_64 : (Line.mk .btn [0, 64]).wellFormed = false := by decide
theorem test_wf_refuses_flag_2 : (Line.mk .rtext [2]).wellFormed = false := by decide
theorem test_wf_refuses_palette_index_16 : (Line.mk .spalw [16, 0]).wellFormed = false := by decide
theorem test_wf_refuses_palette_value_16 : (Line.mk .spalw [0, 16]).wellFormed = false := by decide
theorem test_assemble_refuses_ill_formed : assemble ⟨.bset, [64, 1]⟩ = none := by decide
theorem test_assemble_slot_name : slotOf 1 1 = 9 := by decide -- P6: p1.b1

/-! ## Decoding: a word of every command, from 95_test_vectors.md, then reserved words (B7) -/

theorem test_decode_nop : decode 0x00000000 = .ok .nop := by decide
theorem test_decode_lih : decode 0x0110FFFF = .ok (.lih 1 0xFFFF) := by decide
theorem test_decode_lil : decode 0x02F00000 = .ok (.lil 15 0) := by decide
theorem test_decode_mov : decode 0x03130000 = .ok (.mov 1 3) := by decide
theorem test_decode_csrr : decode 0x04400003 = .ok (.csrr 4 3) := by decide
theorem test_decode_csrw : decode 0x05060003 = .ok (.csrw 3 6) := by decide
theorem test_decode_f2x : decode 0x10100000 = .ok (.f2x 1) := by decide
theorem test_decode_x2f : decode 0x11010000 = .ok (.x2f 1) := by decide
theorem test_decode_fclamp : decode 0x12000000 = .ok .fclamp := by decide
theorem test_decode_sgn : decode 0x20210000 = .ok (.sgn 2 1) := by decide
theorem test_decode_sqrt : decode 0x21210000 = .ok (.sqrt 2 1) := by decide
theorem test_decode_band : decode 0x22312000 = .ok (.band 3 1 2) := by decide
theorem test_decode_bor : decode 0x23312000 = .ok (.bor 3 1 2) := by decide
theorem test_decode_bxor : decode 0x24312000 = .ok (.bxor 3 1 2) := by decide
theorem test_decode_bnot : decode 0x25310000 = .ok (.bnot 3 1) := by decide
theorem test_decode_shl : decode 0x26312000 = .ok (.shl 3 1 2) := by decide
theorem test_decode_shr : decode 0x27312000 = .ok (.shr 3 1 2) := by decide
theorem test_decode_cos : decode 0x30210000 = .ok (.cos 2 1) := by decide
theorem test_decode_sin : decode 0x31210000 = .ok (.sin 2 1) := by decide
theorem test_decode_atan2 : decode 0x32312000 = .ok (.atan2 3 1 2) := by decide
theorem test_decode_bset : decode 0x4000013F = .ok (.bset 63 true) := by decide
theorem test_decode_lupd : decode 0x41000000 = .ok .lupd := by decide
theorem test_decode_btn : decode 0x42300010 = .ok (.btn 3 16) := by decide
theorem test_decode_btnp : decode 0x43200004 = .ok (.btnp 2 4) := by decide
theorem test_decode_btnm : decode 0x44100000 = .ok (.btnm 1) := by decide
theorem test_decode_btnpm : decode 0x45200000 = .ok (.btnpm 2) := by decide
theorem test_decode_held : decode 0x46300004 = .ok (.held 3 4) := by decide
theorem test_decode_spalw : decode 0x50000F00 = .ok (.spalw 0 15) := by decide
theorem test_decode_spalr : decode 0x51200007 = .ok (.spalr 2 7) := by decide
theorem test_decode_palrst : decode 0x52000000 = .ok .palrst := by decide
theorem test_decode_rtrue : decode 0x53000000 = .ok .rtrue := by decide
theorem test_decode_rtext : decode 0x54000001 = .ok (.rtext true) := by decide

/-- All 21 reserved words of B7. -/
theorem test_decode_reserved_words :
    ([0xFFFFFFFF, 0x06000000, 0x13000000, 0x55000000, 0x00000001, 0x01130005, 0x03120001, 0x05110003,
      0x10100001, 0x11110000, 0x12000001, 0x22123001, 0x40000040, 0x40000200, 0x42100040, 0x44110000,
      0x50001000, 0x50000010, 0x51100010, 0x53000001, 0x54000002] : List Word).all
      (fun w => match decode w with | .ok _ => false | .error _ => true) = true := by decide

/-- P1: the first word as bytes. -/
theorem test_decode_bytes : decodeBytes [0x00, 0x00, 0x10, 0x01] = .ok (.lih 1 0, []) := by decide
theorem test_decode_table_word : decodeTableWord 32 0x01200005 = some (.lih 2 5) := by decide

/-! ## One step of each command -/

-- B1 rows 2, 5, 6, 9, 12, 14, 18
theorem test_nop : after .nop (two 1 2) = some (two 1 2) := by decide
theorem test_lih : reg (.lih 2 5) (two 0 0xDEADBEEF) 2 = some 0x00050000 := by decide
theorem test_lil : reg (.lil 1 0xBEEF) (two 0x12345678 0) 1 = some 0x1234BEEF := by decide
theorem test_mov : reg (.mov 1 2) (two 0x12345678 0xCAFEF00D) 1 = some 0xCAFEF00D := by decide
theorem test_csrr : reg (.csrr 4 2) (staged 0x3FF8000000000000) 4 = some 0x3FF80000 := by decide
theorem test_csrr_unimplemented : csr (.csrr 4 7) (two 0 0) .status = some 1 := by decide
theorem test_csrw : csr (.csrw 3 1) (two 0xFFFF4AFB 0) .dout = some 0xFFFF4AFB := by decide
theorem test_csrw_status : csr (.csrw 0 1) (two 0xFFFFFFFE 0).setUnimp .status = some 0 := by decide

-- B2.1 rows 17, 38; B2.2 rows 9, 16; B2.3 rows 4, 12
theorem test_f2x_wraps : reg (.f2x 1) (staged 0x40FE240C9FBE76C9) 1 = some 0xE240C9FC := by decide
theorem test_f2x_nan : reg (.f2x 1) (staged 0xFFF8000000000000) 1 = some 0x7FFFFFFF := by decide
theorem test_x2f_min : flt (.x2f 1) (two 0x80000000 0) = some 0xC0E0000000000000 := by decide +kernel
theorem test_x2f : flt (.x2f 1) (two 0x0000B505 0) = some 0x3FE6A0A000000000 := by decide +kernel
theorem test_fclamp : flt .fclamp (staged 0x40E3880000000000) = some 0xC0D8F00000000000 := by
  decide +kernel
theorem test_fclamp_neg_inf : flt .fclamp (staged 0xFFF0000000000000) = some 0xC0E0000000000000 := by
  decide +kernel

-- B3.1 rows 1, 2; B3.2 rows 7, 17; B3.3 row 3; B3.4 rows 10, 12, 14, 19
theorem test_sgn_zero : reg (.sgn 2 1) (two 0 0) 2 = some 0xFFFF0000 := by decide
theorem test_sgn_positive : reg (.sgn 2 1) (two 1 0) 2 = some 0x00010000 := by decide
theorem test_sqrt_rounds_up : reg (.sqrt 2 1) (two 0x00008000 0) 2 = some 0x0000B505 := by
  decide +kernel
theorem test_sqrt_largest : reg (.sqrt 2 1) (two 0x7FFFFFFF 0) 2 = some 0x00B504F3 := by
  decide +kernel
theorem test_band : reg (.band 3 1 2) (two 0xFFFE8000 0x00FF0000) 3 = some 0x00FF0000 := by decide
theorem test_bor : reg (.bor 3 1 2) (two 0xFFFE8000 0x00FF0000) 3 = some 0xFFFF0000 := by decide
theorem test_bxor : reg (.bxor 3 1 2) (two 0xFFFE8000 0x00FF0000) 3 = some 0xFF000000 := by decide
theorem test_bnot : reg (.bnot 3 1) (two 0x0005C000 0) 3 = some 0xFFFA0000 := by decide
theorem test_shl_negative_count : reg (.shl 3 1 2) (two 0x00FF0000 0xFFFC0000) 3 = some 0x000F0000 := by
  decide
theorem test_shl_most_negative_count :
    reg (.shl 3 1 2) (two 0xFFFF0000 0x80000000) 3 = some 0xFFFF0000 := by decide
theorem test_shr_arithmetic : reg (.shr 3 1 2) (two 0x80000000 0x00100000) 3 = some 0xFFFF0000 := by
  decide
theorem test_shr_truncates_count : reg (.shr 3 1 2) (two 0x00FF0000 0x0001FFFF) 3 = some 0x007F0000 := by
  decide

-- B4.1 rows 3, 27; B4.2 rows 21, 29
theorem test_cos : reg (.cos 2 1) (two 0x00001000 0) 2 = some 0x0000EC83 := by decide +kernel
theorem test_cos_ignores_high_bits : reg (.cos 2 1) (two 0x7FFFFFFF 0) 2 = some 0x00010000 := by
  decide +kernel
theorem test_sin : reg (.sin 2 1) (two 0x00001000 0) 2 = some 0xFFFF9E08 := by decide +kernel
theorem test_sin_negated_wrap : reg (.sin 2 1) (two 0x7FFFFFFF 0) 2 = some 0x00000006 := by
  decide +kernel
theorem test_atan2_near_diagonal : reg (.atan2 3 1 2) (two 0x7FFFFFFF 0x80000000) 3 = some 0x2000 := by
  decide +kernel
theorem test_atan2_general : reg (.atan2 3 1 2) (two 0x12345678 0x0FEDCBA9) 3 = some 0xE2B6 := by
  decide +kernel

-- B5.1 rows 3, 6, 8, 14, 20, 23
theorem test_bset_clears_raw_only :
    (after (.bset 10 false) (slotted 10 true 7)).map (fun t => (t.getRaw 10, t.getHeld 10))
      = some (false, 7) := by decide +kernel
theorem test_lupd_folds_back :
    (after .lupd (slotted 5 true 0xFFFFFFFF)).map (fun t => t.getHeld 5) = some 0xFFFFFFFC := by
  decide +kernel
theorem test_lupd_release :
    (after .lupd (slotted 0 false 15)).map (fun t => t.getHeld 0) = some 0 := by decide +kernel
theorem test_btn : reg (.btn 1 4) (slotted 4 true 2) 1 = some 1 := by decide +kernel
theorem test_btnp_repeat : reg (.btnp 2 4) (slotted 4 true 16) 2 = some 1 := by decide +kernel
theorem test_btnp_between : reg (.btnp 2 4) (slotted 4 true 0xFFFFFFFF) 2 = some 0 := by
  decide +kernel
theorem test_held : reg (.held 3 4) (slotted 4 true 26) 3 = some 0x0000001A := by decide +kernel
theorem test_btnm_top_slot : reg (.btnm 1) (slotted 15 true 16) 1 = some 0x00008000 := by
  decide +kernel
theorem test_btnm_leaves_out_slot_16 : reg (.btnm 1) (slotted 16 true 1) 1 = some 0 := by
  decide +kernel
theorem test_btnpm : reg (.btnpm 2) (slotted 5 true 1) 2 = some 0x00000020 := by decide +kernel

-- B6.1 rows 1, 5, 6
theorem test_spalw :
    (after (.spalw 2 8) State.reset).map (fun t => (t.getSpal 2, t.getSpal 3)) = some (8, 3) := by
  decide
theorem test_spalr : reg (.spalr 2 7) (State.reset.setSpal 0 15) 2 = some 7 := by decide
theorem test_palrst :
    (after .palrst (State.reset.setSpal 15 0)).map (fun t => t.getSpal 15) = some 15 := by decide

/-- `MASTER` of G3 (93_implementation_defined.md), the entries the vectors use. -/
def g3 (n : BitVec 4) : BitVec 24 :=
  match n.toNat with
  | 1 => 0x1D2B53
  | 2 => 0x7E2553
  | 8 => 0xFF004D
  | _ => 0

-- B6.2 rows 1, 6
theorem test_rtrue_low_nibble_first :
    bytePixels g3 identityPalette 0x12 = [0x7E, 0x25, 0x53, 0x1D, 0x2B, 0x53] := by decide
theorem test_rtrue_palette :
    bytePixels g3 (identityPalette.set 2 8) 0x12 = [0xFF, 0x00, 0x4D, 0x1D, 0x2B, 0x53] := by decide

/-- `TERM16` of G4, the entries the vectors use. -/
def g4 (n : BitVec 4) : BitVec 8 :=
  match n.toNat with
  | 0 => 16
  | 1 => 17
  | 3 => 29
  | 7 => 230
  | 8 => 197
  | _ => 0

-- B6.3 row 3; P3: the first four cells of row 0
theorem test_rtext_cell : cellOf g4 0 7 = ⟨230, 16, .lower⟩ := by decide
theorem test_rtext_row :
    cellTokens none none [⟨197, 16, .upper⟩, ⟨17, 16, .upper⟩, ⟨16, 16, .upper⟩, ⟨16, 16, .upper⟩]
      = [.fg 197, .bg 16, .glyph .upper, .fg 17, .glyph .upper, .fg 16, .glyph .upper,
        .glyph .upper] := by decide

-- P3: the proposed bytes of ROW(0), FG(197), GLYPH(UPPER)
theorem test_term_enc : [Token.row 0, .fg 197, .glyph .upper].flatMap proposedTermEnc
    = [0x1B, 0x5B, 0x31, 0x3B, 0x31, 0x48, 0x1B, 0x5B, 0x33, 0x38, 0x3B, 0x35, 0x3B, 0x31, 0x39, 0x37,
      0x6D, 0xE2, 0x96, 0x80] := by decide

/-! ## Witnesses: hypotheses that can be met -/

theorem test_witness_decoded_word : decode 0xFFFFFFFF = .error (.unassignedOp 0xFF)
    ∧ decode 0x54000001 = .ok (.rtext true) := by decide

theorem test_witness_assembled_line : assemble ⟨.btn, [15, 63]⟩ = some (.btn 15 63)
    ∧ (Line.mk .btn [15, 63]).wellFormed = true := by decide

theorem test_witness_covered_word :
    (⟨.lih, 0x01000000, 0xFF0F0000⟩ : OpRow) ∈ opTable
      ∧ (⟨.lih, 0x01000000, 0xFF0F0000⟩ : OpRow).covers 0x01200005 = true
      ∧ decode 0x01200005 = .ok (.lih 2 5) := by decide

theorem test_witness_command_bytes : decode (wordOfBytes 0x05 0x00 0x20 0x01) = .ok (.lih 2 5)
    ∧ ([] : List Byte).length < 4 ∧ ([1, 2, 3] : List Byte).length < 4 := by decide

theorem test_witness_presented_command :
    (ported (.command 0x01200005)).port = .command 0x01200005 :: []
      ∧ decode 0x01200005 = .ok (.lih 2 5)
      ∧ ∃ t, step (ported (.command 0x01200005)) = .next t := ⟨rfl, by decide, _, rfl⟩

theorem test_witness_reserved_word :
    (ported (.command 0x01230005)).port = .command 0x01230005 :: []
      ∧ ∀ row ∈ opTable, row.covers 0x01230005 = false := by decide

/-- The first and the last byte of `PREV` and `PIX` written. -/
def written (a : HostAction) : State :=
  { ported a with prev := [(0, 1), (8191, 2)], pix := [(0, 1), (49151, 2)] }

theorem test_witness_invariant : (written (.command 0)).Inv
    ∧ ∃ t, step (written (.command 0)) = .next t :=
  ⟨⟨⟨rfl, rfl⟩, ⟨by decide, by decide⟩, by decide, by decide⟩, _, rfl⟩

theorem test_witness_reset_input : (ported (.external .reset)).port = .external .reset :: [] := rfl

theorem test_witness_block_at_reset : BlockAtReset State.reset := by
  refine ⟨by decide +kernel, fun c => by cases c <;> rfl, ?_, ?_, by decide +kernel⟩
  · decide +kernel
  · decide +kernel

theorem test_witness_idle : State.reset.port = [] := rfl

theorem test_witness_outside_writes :
    (written (.external (.vmWrite 0 1))).Inv ∧ (written (.external (.prevWrite 8191 0))).Inv
      ∧ (written (.external (.pixWrite 49151 0))).Inv
      ∧ (written (.external (.vmWrite 0 1))).port = .external (.vmWrite 0 1) :: []
      ∧ (written (.external (.prevWrite 8191 0))).port = .external (.prevWrite 8191 0) :: []
      ∧ (written (.external (.pixWrite 49151 0))).port = .external (.pixWrite 49151 0) :: [] :=
  ⟨⟨⟨rfl, rfl⟩, ⟨by decide, by decide⟩, by decide, by decide⟩,
    ⟨⟨rfl, rfl⟩, ⟨by decide, by decide⟩, by decide, by decide⟩,
    ⟨⟨rfl, rfl⟩, ⟨by decide, by decide⟩, by decide, by decide⟩, rfl, rfl, rfl⟩

theorem test_witness_framebuffer_bounds :
    0 ≤ 8191 ∧ 8191 ≤ 8191 ∧ pixIdx (fun i => BitVec.ofNat 8 i) 127 127 = 15 := by decide

theorem test_witness_nop_opcode : opOf 0x00000001 = 0x00 ∧ (0x00000001 : Word) ≠ 0
    ∧ opOf 0x00FFFFFF = 0x00 ∧ (0x00FFFFFF : Word) ≠ 0 := by decide

theorem test_witness_unimp_changes :
    (∃ t, exec (.csrr 4 7) State.reset = .next t ∧ t.unimp ≠ State.reset.unimp)
      ∧ (∃ t, exec (.csrw 0xFFFF 1) State.reset = .next t ∧ t.unimp ≠ State.reset.unimp)
      ∧ ∃ t, exec (.csrw 0 1) (two 1 0) = .next t ∧ t.unimp ≠ (two 1 0).unimp :=
  ⟨⟨_, rfl, by decide⟩, ⟨_, rfl, by decide⟩, _, rfl, by decide⟩

theorem test_witness_unimp_steps :
    (∃ t, step (ported (.external .reset)).setUnimp = .next t
        ∧ t.unimp ≠ (ported (.external .reset)).setUnimp.unimp)
      ∧ (∃ t, step (ported (.command 0xFFFFFFFF)) = .next t
        ∧ t.unimp ≠ (ported (.command 0xFFFFFFFF)).unimp)
      ∧ ∃ t, step (ported (.command 0x04000007)) = .next t
        ∧ t.unimp ≠ (ported (.command 0x04000007)).unimp :=
  ⟨⟨_, rfl, by decide⟩, ⟨_, rfl, by decide⟩, _, rfl, by decide⟩

/-- The values of a pattern with biased exponent `e` between the bounds 2^31 of R96. -/
theorem f64Value_staged (sg : Bool) (e m : Nat) (f : BitVec 64) (hs : f64Sign f = sg)
    (he : f64Exp f = e) (hm : f64Frac f = m) (h0 : e ≠ 0) :
    f64Value f = (if sg then -1 else 1) * ((2 ^ 52 + m : ℚ) * 2 ^ ((e : Int) - 1075)) := by
  simp [f64Value, hs, he, hm, h0]

theorem test_witness_conversion_bounds :
    (f64Finite (staged 0x40DFFFFFFFC00000).float
        ∧ f64Value (staged 0x40DFFFFFFFC00000).float * 65536 = ((2 ^ 31 - 1 : Int) : ℚ)
        ∧ RN (f64Value (staged 0x40DFFFFFFFC00000).float * 65536) = 2 ^ 31 - 1)
      ∧ f64Finite (staged 0xC0E0000000000000).float
        ∧ f64Value (staged 0xC0E0000000000000).float * 65536 = ((-2 ^ 31 : Int) : ℚ)
        ∧ RN (f64Value (staged 0xC0E0000000000000).float * 65536) = -2 ^ 31 := by
  have a : f64Value (staged 0x40DFFFFFFFC00000).float * 65536 = ((2 ^ 31 - 1 : Int) : ℚ) := by
    rw [f64Value_staged false 1037 0xFFFFFFFC00000 _ (by decide) (by decide) (by decide) (by decide)]
    norm_num
  have b : f64Value (staged 0xC0E0000000000000).float * 65536 = ((-2 ^ 31 : Int) : ℚ) := by
    rw [f64Value_staged true 1038 0 _ (by decide) (by decide) (by decide) (by decide)]
    norm_num
  refine ⟨⟨by unfold f64Finite; decide, a, ?_⟩, by unfold f64Finite; decide, b, ?_⟩
  · rw [a]; norm_num [RN]
  · rw [b]; norm_num [RN]

theorem test_witness_x2f_clauses : (two 0 0).getX 1 = 0 ∧ (two 1 0).getX 1 ≠ 0
    ∧ (two 0x80000000 0).getX 1 ≠ 0 := by decide

theorem test_witness_sqrt_clauses : ((two 0 0).getX 1).toInt ≤ 0 ∧ 0 < ((two 1 0).getX 1).toInt
    ∧ 0 < ((two 0x7FFFFFFF 0).getX 1).toInt := by decide

theorem test_witness_shift_bounds : (-32768 : Int) ≤ -32768 ∧ (-32768 : Int) ≤ 32767
    ∧ sh16 (-32768) 15 = 0 ∧ sh16 32767 (-15) = 0 ∧ sh16 (-32768) (-16) = 0xFFFF := by decide

theorem test_witness_quarter_wave_bounds : qsin 0 = 0 ∧ qsin 16384 = 65536
    ∧ 16384 ≤ 16384 ∧ 32768 ≤ 32768 ∧ 49152 ≤ 49152 ∧ 49152 < 65535 := by decide +kernel

/-- The two operands of `ATAN2 x3, x1, x2` as integers. -/
def point (a b : Word) : Int × Int := (((two a b).getX 1).toInt, ((two a b).getX 2).toInt)

theorem test_witness_atan2_clauses :
    point 0 0 = (0, 0) ∧ point 1 0 = (1, 0) ∧ point 0 0x80000000 = (0, -2147483648)
      ∧ point 0x80000000 0 = (-2147483648, 0) ∧ point 0 1 = (0, 1) ∧ point 1 0xFFFFFFFF = (1, -1)
      ∧ point 0x80000000 0x80000000 = (-2147483648, -2147483648)
      ∧ point 0xFFFFFFFF 1 = (-1, 1) ∧ point 0x7FFFFFFF 0x7FFFFFFF = (2147483647, 2147483647)
      ∧ point 0x00010000 1 = (0x10000, 1) ∧ point 0x00010000 0xFFFFFFFF = (0x10000, -1)
      ∧ point 0x7FFFFFFF 0x80000000 = (2147483647, -2147483648)
      ∧ ¬((two 0 1).getX 1 = 0 ∧ (two 0 1).getX 2 = 0) := by decide

theorem test_witness_directions : ¬((3 : Int) = 0 ∧ (-4 : Int) = 0) ∧ (1 : Int) ≤ 1
    ∧ (0 : Int) < 2 ∧ (-1 : Int) ≤ 0 ∧ (0 : Int) ≤ 0 ∧ ¬((0 : Int) = 0 ∧ (-1 : Int) = 0)
    ∧ -(-1 : Int) * 0 ≤ -(-1) * 2 := by decide

/-- Slot 4 at the top of its counter, and one thing the host does next. -/
def topCounter (r : Bool) (a : HostAction) : State :=
  { slotted 4 r 0xFFFFFFFF with port := [a] }

theorem test_witness_held_counter :
    (∀ r a, ((topCounter r a).getHeld 4).toNat = foldedCount 0xFFFFFFFF
        ∧ ((topCounter r a).getHeld 4).toNat = foldedCount 0x100000003)
      ∧ (∀ r, (topCounter r (.command (encode .lupd))).port = .command (encode .lupd) :: [])
      ∧ (∀ r, (topCounter r (.external .reset)).port = .external .reset :: [])
      ∧ (topCounter true (.command 0)).getRaw 4 = true
      ∧ (topCounter false (.command 0)).getRaw 4 = false
      ∧ (∃ t, step (topCounter true (.command (encode (.bset 4 false)))) = .next t)
      ∧ (∀ rest, (topCounter true (.command (encode (.bset 4 false)))).port
          ≠ .command (encode .lupd) :: rest)
      ∧ ∀ rest, (topCounter true (.command (encode (.bset 4 false)))).port
          ≠ .external .reset :: rest := by
  have hw : encode (.bset 4 false) ≠ encode .lupd := by decide
  refine ⟨fun r a => ⟨rfl, rfl⟩, fun _ => rfl, fun _ => rfl, by decide +kernel, by decide +kernel,
    ⟨_, rfl⟩, fun rest h => ?_, fun rest h => ?_⟩
  · simp only [topCounter, List.cons.injEq, HostAction.command.injEq] at h
    exact hw h.1
  · simp [topCounter] at h

theorem test_witness_raw_unseen : Instr.btn 1 4 ≠ .lupd ∧ (∀ slot v, Instr.btn 1 4 ≠ .bset slot v)
    ∧ ∃ t, exec (.btn 1 4) (slotted 4 true 2) = .next t :=
  ⟨by decide, by decide, _, rfl⟩

theorem test_witness_pix_bounds : Memory.wf (written (.command 0)).pix = true
    ∧ Memory.below 49152 (written (.command 0)).pix = true := by decide

/-- With nothing written anywhere every framebuffer byte reads 0. -/
theorem readFb_reset (i : Nat) : State.reset.readFb i = 0 := by
  unfold State.readFb State.readVm
  split <;> rfl

theorem test_witness_row_unchanged : RowUnchanged State.reset 0 ∧ RowUnchanged State.reset 63
    ∧ ¬RowUnchanged (written (.command 0)) 0 := by
  have h : ∀ i, (written (.command 0)).readFb i = 0 := readFb_reset
  refine ⟨fun j _ => readFb_reset _, fun j _ => readFb_reset _, fun c => ?_⟩
  have := c 0 (by decide)
  rw [h] at this
  exact absurd this (by decide)

theorem test_witness_snapshot_equal :
    ∀ i, i < 8192 → State.reset.readFb i = State.reset.readPrev i := fun i _ => readFb_reset i

theorem test_witness_same_picture :
    (∀ i, i < 8192 → (two 1 2).readFb i = State.reset.readFb i) ∧ (two 1 2).spal = State.reset.spal
      ∧ ∀ i, i < 8192 → (two 1 2).readPrev i = State.reset.readPrev i :=
  ⟨fun _ _ => rfl, rfl, fun _ _ => rfl⟩

theorem test_witness_cell_clauses (term16 : BitVec 4 → BitVec 8) :
    (cellOf term16 7 7).glyph = .upper ∧ (cellOf term16 0 1).glyph = .lower := ⟨rfl, rfl⟩

theorem test_witness_register_use :
    (∃ t, exec (.mov 3 1) (two 5 6) = .next t) ∧ writesReg (.mov 3 1) ≠ some 2
      ∧ ∀ r ∈ readsReg (.mov 3 1), (two 5 7).getX r = (two 5 6).getX r :=
  ⟨⟨_, rfl⟩, by decide, by decide⟩

theorem test_witness_array_writers :
    ((after (.bset 4 true) State.reset).map fun t => t.raw == State.reset.raw) = some false
      ∧ ((after .lupd (slotted 4 true 0)).map fun t => t.held == (slotted 4 true 0).held) = some false
      ∧ ((after (.spalw 2 8) State.reset).map fun t => t.spal == State.reset.spal) = some false
      ∧ ((after .palrst (State.reset.setSpal 2 8)).map fun t =>
          t.spal == (State.reset.setSpal 2 8).spal) = some false
      ∧ csr (.csrw 3 1) (two 1 0) .dout = some 1 ∧ csr (.csrw 4 1) (two 1 0) .ptrx = some 1
      ∧ csr (.csrw 5 1) (two 1 0) .ptry = some 1 ∧ csr (.csrw 6 1) (two 1 0) .ptrb = some 1
      ∧ csr (.csrw 1 1) (two 1 0) .flo = some 1 ∧ csr (.csrw 2 1) (two 1 0) .fhi = some 1 := by
  decide +kernel

/-- `RTRUE` changes a `PIX` that holds a byte beyond the buffer (a state no run reaches): its frame
reads 0 there. -/
theorem test_witness_rtrue_writes :
    ∃ t, exec .rtrue { State.reset with pix := [(49152, 1)] } = .next t
      ∧ t.pix ≠ [(49152, 1)] := by
  obtain ⟨m, h1, h2⟩ := exec_rtrue_pix { State.reset with pix := [(49152, 1)] }
  refine ⟨_, h1, fun h => ?_⟩
  have hm : m = [(49152, 1)] := h
  have hb := Memory.below_ofBytes (a := 0) (n := 49152)
    (bs := framePixels Config.master State.reset.spal State.reset.readFb)
    (by rw [length_framePixels])
  have hr := Memory.read_of_below hb (Nat.le_refl 49152)
  have e : Memory.ofBytes 0 (framePixels Config.master State.reset.spal State.reset.readFb)
      = [(49152, 1)] := h2.symm.trans hm
  rw [e] at hr
  exact absurd hr (by decide)

/-- `RTEXT 0` appends something: the sink grows. -/
theorem test_witness_rtext_appends :
    frameTokens Config.term16 State.reset.spal State.reset.readFb (fun _ => false) ≠ [] := by
  intro h
  have := List.flatMap_eq_nil_iff.mp h 0 (List.mem_finRange 0)
  simp [rowTokens] at this

end Sys2Proof.Tests
end

/-! PROOFS. What a command does, said once: 22 commands put one value into one general register,
the others have an action of their own. Rules over all commands are proved from `instr_cases`. -/

namespace Sys2Proof.Machine

/-! ## Control registers by number -/

/-- The number of a control register (10_state.md R14). -/
def Csr.number : Csr → BitVec 16
  | .status => 0 | .flo => 1 | .fhi => 2 | .dout => 3 | .ptrx => 4 | .ptry => 5 | .ptrb => 6

/-- `Csr.number` inverts the table of R14. -/
theorem csrOf_eq_some_iff (n : BitVec 16) (c : Csr) : csrOf n = some c ↔ n = c.number := by
  constructor
  · intro h
    unfold csrOf at h
    split at h <;> cases h <;> exact BitVec.eq_of_toNat_eq ‹_›
  · rintro rfl
    cases c <;> rfl

/-- A number names a control register or is unimplemented (10_state.md R14, R15). -/
theorem csr_number_or_unimplemented (n : BitVec 16) :
    (∃ c : Csr, n = c.number) ∨ 7 ≤ n.toNat := by
  cases h : csrOf n with
  | none => exact .inr ((csrOf_eq_none_iff n).mp h)
  | some c => exact .inl ⟨c, (csrOf_eq_some_iff n c).mp h⟩

@[simp] theorem exec_csrr_number (rd : Reg) (c : Csr) (s : State) :
    exec (.csrr rd c.number) s = .next (s.setX rd (readCsr c s)) :=
  exec_csrr_some ((csrOf_eq_some_iff _ c).mpr rfl) rd s

@[simp] theorem exec_csrw_number (c : Csr) (ra : Reg) (s : State) :
    exec (.csrw c.number ra) s = .next (writeCsr c (s.getX ra) s) :=
  exec_csrw_some ((csrOf_eq_some_iff _ c).mpr rfl) ra s

theorem exec_csrr_unimplemented {n : BitVec 16} (h : 7 ≤ n.toNat) (rd : Reg) (s : State) :
    exec (.csrr rd n) s = .next (s.setX rd 0).setUnimp :=
  exec_csrr_none ((csrOf_eq_none_iff n).mpr h) rd s

theorem exec_csrw_unimplemented {n : BitVec 16} (h : 7 ≤ n.toNat) (ra : Reg) (s : State) :
    exec (.csrw n ra) s = .next s.setUnimp :=
  exec_csrw_none ((csrOf_eq_none_iff n).mpr h) ra s

/-- The raw flags hold still and are not looked at while a control register is written. -/
theorem writeCsr_withRaw (c : Csr) (v : Word) (s : State) (raw' : Vector Bool 64) :
    writeCsr c v { s with raw := raw' } = { writeCsr c v s with raw := raw' } := by
  cases c <;> rfl

/-- The general registers hold still and are not looked at while a control register is written. -/
theorem writeCsr_withRegs (c : Csr) (v : Word) (s : State) (x' : Vector Word 16) :
    writeCsr c v { s with x := x' } = { writeCsr c v s with x := x' } := by
  cases c <;> rfl

/-! ## Commands that put a value into a register -/

/-- The register file `x'` agrees with that of `s` on the registers `i` reads (10_state.md R11). -/
def AgreesOnReads (i : Instr) (s : State) (x' : Vector Word 16) : Prop :=
  ∀ r ∈ readsReg i, State.getX { s with x := x' } r = s.getX r

/-- The whole action of `i` is to put `f` of the state into `rd`, where `f` sees no raw flag and no
general register but those R11 has the command read. -/
structure WritesValue (i : Instr) (rd : Reg) (f : State → Word) : Prop where
  target : writesReg i = some rd
  exec_eq : ∀ s, exec i s = .next (s.setX rd (f s))
  ignores_raw : ∀ s raw', f { s with raw := raw' } = f s
  reads_only : ∀ s x', AgreesOnReads i s x' → f { s with x := x' } = f s

/-- A command that computes its value from one register. -/
theorem WritesValue.of_one {i : Instr} {rd ra : Reg} (g : Word → Word)
    (he : ∀ s, exec i s = .next (s.setX rd (g (s.getX ra))))
    (hw : writesReg i = some rd := by rfl) (hr : readsReg i = [ra] := by rfl) :
    WritesValue i rd fun s => g (s.getX ra) where
  target := hw
  exec_eq := he
  ignores_raw _ _ := rfl
  reads_only _ _ h := congrArg g (h ra (by simp [hr]))

/-- A command that computes its value from two registers. -/
theorem WritesValue.of_two {i : Instr} {rd ra rb : Reg} (g : Word → Word → Word)
    (he : ∀ s, exec i s = .next (s.setX rd (g (s.getX ra) (s.getX rb))))
    (hw : writesReg i = some rd := by rfl) (hr : readsReg i = [ra, rb] := by rfl) :
    WritesValue i rd fun s => g (s.getX ra) (s.getX rb) where
  target := hw
  exec_eq := he
  ignores_raw _ _ := rfl
  reads_only _ _ h := congrArg₂ g (h ra (by simp [hr])) (h rb (by simp [hr]))

/-- A command that computes its value from no general register and no raw flag. -/
theorem WritesValue.of_rest {i : Instr} {rd : Reg} {f : State → Word}
    (he : ∀ s, exec i s = .next (s.setX rd (f s)))
    (hraw : ∀ s raw', f { s with raw := raw' } = f s := by intros; rfl)
    (hx : ∀ s x', f { s with x := x' } = f s := by intros; rfl)
    (hw : writesReg i = some rd := by rfl) :
    WritesValue i rd f where
  target := hw
  exec_eq := he
  ignores_raw := hraw
  reads_only s x' _ := hx s x'

theorem readCsr_withRaw (c : Csr) (s : State) (raw' : Vector Bool 64) :
    readCsr c { s with raw := raw' } = readCsr c s := readCsr_congr c rfl

theorem readCsr_withRegs (c : Csr) (s : State) (x' : Vector Word 16) :
    readCsr c { s with x := x' } = readCsr c s := readCsr_congr c rfl

theorem readFb_withRaw (s : State) (raw' : Vector Bool 64) :
    State.readFb { s with raw := raw' } = s.readFb := rfl

theorem readFb_withRegs (s : State) (x' : Vector Word 16) :
    State.readFb { s with x := x' } = s.readFb := rfl

/-! ## Every command by its action -/

/-- To prove a rule of every command, prove it of those that put a value into a register, and of
each other command by its own action. -/
theorem instr_cases {P : Instr → Prop}
    (writesValue : ∀ {i rd} {f : State → Word}, WritesValue i rd f → P i)
    (csrr_unimplemented : ∀ (rd : Reg) (n : BitVec 16), 7 ≤ n.toNat → P (.csrr rd n))
    (csrw : ∀ (c : Csr) ra, P (.csrw c.number ra))
    (csrw_unimplemented : ∀ (n : BitVec 16) ra, 7 ≤ n.toNat → P (.csrw n ra))
    (nop : P .nop) (x2f : ∀ ra, P (.x2f ra)) (fclamp : P .fclamp)
    (bset : ∀ slot v, P (.bset slot v)) (lupd : P .lupd)
    (spalw : ∀ idx val, P (.spalw idx val)) (palrst : P .palrst)
    (rtrue : P .rtrue) (rtext : ∀ p, P (.rtext p)) (i : Instr) : P i := by
  cases i with
  | nop => exact nop
  | lih rd imm => exact writesValue (.of_rest (exec_lih rd imm))
  | lil rd imm =>
    exact writesValue (.of_one (fun v => joinHalves (highHalf v) imm) (exec_lil rd imm))
  | mov rd ra => exact writesValue (.of_one id (exec_mov rd ra))
  | csrr rd n =>
    obtain ⟨c, rfl⟩ | hn := csr_number_or_unimplemented n
    · exact writesValue (.of_rest (exec_csrr_number rd c) (readCsr_withRaw c) (readCsr_withRegs c))
    · exact csrr_unimplemented rd n hn
  | csrw n ra =>
    obtain ⟨c, rfl⟩ | hn := csr_number_or_unimplemented n
    · exact csrw c ra
    · exact csrw_unimplemented n ra hn
  | f2x rd => exact writesValue (.of_rest (exec_f2x rd))
  | x2f ra => exact x2f ra
  | fclamp => exact fclamp
  | sgn rd ra => exact writesValue (.of_one signFixed (exec_sgn rd ra))
  | sqrt rd ra => exact writesValue (.of_one sqrtFixed (exec_sqrt rd ra))
  | band rd ra rb =>
    exact writesValue (.of_two (fun a b => packBits (bits16 a &&& bits16 b)) (exec_band rd ra rb))
  | bor rd ra rb =>
    exact writesValue (.of_two (fun a b => packBits (bits16 a ||| bits16 b)) (exec_bor rd ra rb))
  | bxor rd ra rb =>
    exact writesValue (.of_two (fun a b => packBits (bits16 a ^^^ bits16 b)) (exec_bxor rd ra rb))
  | bnot rd ra =>
    exact writesValue (.of_one (fun a => packBits (~~~ bits16 a)) (exec_bnot rd ra))
  | shl rd ra rb =>
    exact writesValue (.of_two (fun a b => packBits (sh16 (tr16 a) (tr16 b))) (exec_shl rd ra rb))
  | shr rd ra rb =>
    exact writesValue (.of_two (fun a b => packBits (sh16 (tr16 a) (-tr16 b))) (exec_shr rd ra rb))
  | cos rd ra => exact writesValue (.of_one cosTurns (exec_cos rd ra))
  | sin rd ra => exact writesValue (.of_one sinTurns (exec_sin rd ra))
  | atan2 rd ra rb =>
    exact writesValue
      (.of_two (fun a b => BitVec.ofNat 32 (atanT (s32 a) (s32 b))) (exec_atan2 rd ra rb))
  | bset slot v => exact bset slot v
  | lupd => exact lupd
  | btn rd slot => exact writesValue (.of_rest (exec_btn rd slot))
  | btnp rd slot => exact writesValue (.of_rest (exec_btnp rd slot))
  | btnm rd => exact writesValue (.of_rest (exec_btnm rd))
  | btnpm rd => exact writesValue (.of_rest (exec_btnpm rd))
  | held rd slot => exact writesValue (.of_rest (exec_held rd slot))
  | spalw idx val => exact spalw idx val
  | spalr rd idx => exact writesValue (.of_rest (exec_spalr rd idx))
  | palrst => exact palrst
  | rtrue => exact rtrue
  | rtext p => exact rtext p

end Sys2Proof.Machine

/-! PROOFS. A word that a row of the table of R65 covers decodes (30_encoding.md R63, R66): one
lemma per format of R62 and R64, and one line per row. -/

namespace Sys2Proof

/-! ## Fields under a mask -/

/-- A field that lies under the mask is zero when the masked word is. -/
theorem extractLsb'_eq_zero_of_and {k : Nat} {w z : BitVec k} (h : w &&& z = 0) {a n : Nat}
    (hz : z.extractLsb' a n = BitVec.allOnes n) : w.extractLsb' a n = 0 := by
  rw [← BitVec.and_allOnes (x := w.extractLsb' a n), ← hz, ← BitVec.extractLsb'_and, h]
  simp

theorem immOf_and_eq_zero {w z : Word} (h : w &&& z = 0) : immOf w &&& immOf z = 0 := by
  rw [immOf, immOf, ← BitVec.extractLsb'_and, h]
  rfl

theorem opOf_of_and {w m p : Word} (h : w &&& m = p) (hm : opOf m = BitVec.allOnes 8) :
    opOf w = opOf p := by
  rw [← h, ← BitVec.and_allOnes (x := opOf w), ← hm]
  exact BitVec.extractLsb'_and.symm

/-! ## Formats: the bits that must be zero (R63) are all that can reject a word -/

section Formats
variable {w : Word}

theorem fmtZ_ok (i : Instr) (h : w &&& 0x00FFFFFF = 0) : ∃ j, fmtZ w i = .ok j := by
  have hrd : rdOf w = 0 := extractLsb'_eq_zero_of_and h (by decide)
  have hra : raOf w = 0 := extractLsb'_eq_zero_of_and h (by decide)
  have himm : immOf w = 0 := extractLsb'_eq_zero_of_and h (by decide)
  simp [fmtZ, require, hrd, hra, himm]

theorem fmtD_ok (mk : Reg → Instr) (h : w &&& 0x000FFFFF = 0) : ∃ j, fmtD w mk = .ok j := by
  have hra : raOf w = 0 := extractLsb'_eq_zero_of_and h (by decide)
  have himm : immOf w = 0 := extractLsb'_eq_zero_of_and h (by decide)
  simp [fmtD, require, hra, himm]

theorem fmtA_ok (mk : Reg → Instr) (h : w &&& 0x00F0FFFF = 0) : ∃ j, fmtA w mk = .ok j := by
  have hrd : rdOf w = 0 := extractLsb'_eq_zero_of_and h (by decide)
  have himm : immOf w = 0 := extractLsb'_eq_zero_of_and h (by decide)
  simp [fmtA, require, hrd, himm]

theorem fmtDA_ok (mk : Reg → Reg → Instr) (h : w &&& 0x0000FFFF = 0) :
    ∃ j, fmtDA w mk = .ok j := by
  have himm : immOf w = 0 := extractLsb'_eq_zero_of_and h (by decide)
  simp [fmtDA, require, himm]

theorem fmtDAB_ok (mk : Reg → Reg → Reg → Instr) (h : w &&& 0x00000FFF = 0) :
    ∃ j, fmtDAB w mk = .ok j := by
  have hlow : (immOf w).extractLsb' 0 12 = 0 :=
    extractLsb'_eq_zero_of_and (immOf_and_eq_zero h) (by decide)
  simp [fmtDAB, require, hlow]

theorem fmtDI_ok (mk : Reg → BitVec 16 → Instr) (h : w &&& 0x000F0000 = 0) :
    ∃ j, fmtDI w mk = .ok j := by
  have hra : raOf w = 0 := extractLsb'_eq_zero_of_and h (by decide)
  simp [fmtDI, require, hra]

theorem fmtAI_ok (mk : BitVec 16 → Reg → Instr) (h : w &&& 0x00F00000 = 0) :
    ∃ j, fmtAI w mk = .ok j := by
  have hrd : rdOf w = 0 := extractLsb'_eq_zero_of_and h (by decide)
  simp [fmtAI, require, hrd]

theorem fmtDSlot_ok (mk : Reg → Slot → Instr) (h : w &&& 0x000FFFC0 = 0) :
    ∃ j, fmtDSlot w mk = .ok j := by
  have hra : raOf w = 0 := extractLsb'_eq_zero_of_and h (by decide)
  have hhigh : (immOf w).extractLsb' 6 10 = 0 :=
    extractLsb'_eq_zero_of_and (immOf_and_eq_zero h) (by decide)
  simp [fmtDSlot, require, hra, hhigh]

theorem fmtDIdx_ok (mk : Reg → PalIdx → Instr) (h : w &&& 0x000FFFF0 = 0) :
    ∃ j, fmtDIdx w mk = .ok j := by
  have hra : raOf w = 0 := extractLsb'_eq_zero_of_and h (by decide)
  have hhigh : (immOf w).extractLsb' 4 12 = 0 :=
    extractLsb'_eq_zero_of_and (immOf_and_eq_zero h) (by decide)
  simp [fmtDIdx, require, hra, hhigh]

theorem fmtSlotFlag_ok (mk : Slot → Bool → Instr) (h : w &&& 0x00FFFEC0 = 0) :
    ∃ j, fmtSlotFlag w mk = .ok j := by
  have hrd : rdOf w = 0 := extractLsb'_eq_zero_of_and h (by decide)
  have hra : raOf w = 0 := extractLsb'_eq_zero_of_and h (by decide)
  have hslot : (immOf w).extractLsb' 6 2 = 0 :=
    extractLsb'_eq_zero_of_and (immOf_and_eq_zero h) (by decide)
  have hflag : (immOf w).extractLsb' 9 7 = 0 :=
    extractLsb'_eq_zero_of_and (immOf_and_eq_zero h) (by decide)
  simp [fmtSlotFlag, require, hrd, hra, hslot, hflag]

theorem fmtIdxVal_ok (mk : PalIdx → ColIdx → Instr) (h : w &&& 0x00FFF0F0 = 0) :
    ∃ j, fmtIdxVal w mk = .ok j := by
  have hrd : rdOf w = 0 := extractLsb'_eq_zero_of_and h (by decide)
  have hra : raOf w = 0 := extractLsb'_eq_zero_of_and h (by decide)
  have hidx : (immOf w).extractLsb' 4 4 = 0 :=
    extractLsb'_eq_zero_of_and (immOf_and_eq_zero h) (by decide)
  have hval : (immOf w).extractLsb' 12 4 = 0 :=
    extractLsb'_eq_zero_of_and (immOf_and_eq_zero h) (by decide)
  simp [fmtIdxVal, require, hrd, hra, hidx, hval]

theorem fmtFlag_ok (mk : Bool → Instr) (h : w &&& 0x00FFFFFE = 0) : ∃ j, fmtFlag w mk = .ok j := by
  have hrd : rdOf w = 0 := extractLsb'_eq_zero_of_and h (by decide)
  have hra : raOf w = 0 := extractLsb'_eq_zero_of_and h (by decide)
  have hhigh : (immOf w).extractLsb' 1 15 = 0 :=
    extractLsb'_eq_zero_of_and (immOf_and_eq_zero h) (by decide)
  simp [fmtFlag, require, hrd, hra, hhigh]

end Formats

/-! ## Rows -/

/-- A row whose mask is the opcode and the format's zero bits `z`, and whose pattern is zero under
`z`, covers only words that decode. -/
theorem decode_ok_of_row {o : Op} {p m z w : Word} {r : Except Reject Instr}
    (hfmt : w &&& z = 0 → ∃ i, r = .ok i)
    (hdec : opOf w = opOf p → decode w = r := by intro h; rw [decode, h]; rfl)
    (hmask : opOf m = BitVec.allOnes 8 ∧ m &&& z = z ∧ p &&& z = 0 := by decide)
    (hcov : (OpRow.mk o p m).covers w = true) : ∃ i, decode w = .ok i := by
  obtain ⟨hop, hz, hpz⟩ := hmask
  have hw : w &&& m = p := by simpa [OpRow.covers] using hcov
  have hwz : w &&& z = 0 := by rw [← hz, ← BitVec.and_assoc, hw, hpz]
  rw [hdec (opOf_of_and hw hop)]
  exact hfmt hwz

/-- Every covered word decodes (30_encoding.md R63). -/
theorem decode_ok_of_covers {w : Word} {row : OpRow} (hrow : row ∈ opTable)
    (hcov : row.covers w = true) : ∃ i, decode w = .ok i := by
  revert row
  simp only [opTable, List.forall_mem_cons, List.not_mem_nil, false_imp_iff, implies_true, and_true]
  exact ⟨decode_ok_of_row (fmtZ_ok .nop), decode_ok_of_row (fmtDI_ok .lih),
    decode_ok_of_row (fmtDI_ok .lil), decode_ok_of_row (fmtDA_ok .mov),
    decode_ok_of_row (fmtDI_ok .csrr), decode_ok_of_row (fmtAI_ok .csrw),
    decode_ok_of_row (fmtD_ok .f2x), decode_ok_of_row (fmtA_ok .x2f),
    decode_ok_of_row (fmtZ_ok .fclamp), decode_ok_of_row (fmtDA_ok .sgn),
    decode_ok_of_row (fmtDA_ok .sqrt), decode_ok_of_row (fmtDAB_ok .band),
    decode_ok_of_row (fmtDAB_ok .bor), decode_ok_of_row (fmtDAB_ok .bxor),
    decode_ok_of_row (fmtDA_ok .bnot), decode_ok_of_row (fmtDAB_ok .shl),
    decode_ok_of_row (fmtDAB_ok .shr), decode_ok_of_row (fmtDA_ok .cos),
    decode_ok_of_row (fmtDA_ok .sin), decode_ok_of_row (fmtDAB_ok .atan2),
    decode_ok_of_row (fmtSlotFlag_ok .bset), decode_ok_of_row (fmtZ_ok .lupd),
    decode_ok_of_row (fmtDSlot_ok .btn), decode_ok_of_row (fmtDSlot_ok .btnp),
    decode_ok_of_row (fmtD_ok .btnm), decode_ok_of_row (fmtD_ok .btnpm),
    decode_ok_of_row (fmtDSlot_ok .held), decode_ok_of_row (fmtIdxVal_ok .spalw),
    decode_ok_of_row (fmtDIdx_ok .spalr), decode_ok_of_row (fmtZ_ok .palrst),
    decode_ok_of_row (fmtZ_ok .rtrue), decode_ok_of_row (fmtFlag_ok .rtext)⟩

/-- A reserved word is covered by no row (30_encoding.md R67). -/
theorem covers_eq_false_of_decode_error {w : Word} {e : Reject} (h : decode w = .error e) :
    ∀ row ∈ opTable, row.covers w = false := by
  intro row hrow
  by_contra hcov
  obtain ⟨i, hi⟩ := decode_ok_of_covers hrow (Bool.not_eq_false _ ▸ hcov)
  cases h.symm.trans hi

end Sys2Proof

/-! PROOFS. The rules of 10_state.md that hold of every command: who writes what, which registers a
command uses, that raw flags are unseen. -/

namespace Sys2Proof.Machine

/-- Settles O60: one case per action; only the fields the action names differ. -/
theorem everyArrayHasItsWriters : Obligations.EveryArrayHasItsWriters := by
  intro i s t h
  induction i using instr_cases with
  | @writesValue i rd f hi => cases (hi.exec_eq s).symm.trans h; simp
  | csrr_unimplemented rd n hn => cases (exec_csrr_unimplemented hn rd s).symm.trans h; simp
  | csrw_unimplemented n ra hn => cases (exec_csrw_unimplemented hn ra s).symm.trans h; simp
  | csrw c ra =>
    cases (exec_csrw_number c ra s).symm.trans h
    cases c <;> simp [writeCsr, Csr.number]
  | nop => cases h; simp
  | x2f ra => cases h; simp
  | fclamp => cases h; simp
  | bset slot v => cases h; simp
  | lupd => cases h; simp
  | spalw idx val => cases h; simp
  | palrst => cases h; simp
  | rtrue => cases h; simp
  | rtext p => cases h; simp

/-! ## Raw flags (R30) -/

/-- Settles O50: no action but `BSET` and `LUPD` reads or writes `RAW`. -/
theorem rawFlagsAreInvisibleUntilLatched : Obligations.RawFlagsAreInvisibleUntilLatched := by
  intro i s raw' hlupd hbset t h
  induction i using instr_cases with
  | @writesValue i rd f hi =>
    cases (hi.exec_eq s).symm.trans h
    refine ⟨rfl, ?_⟩
    rw [hi.exec_eq, hi.ignores_raw]
    rfl
  | csrr_unimplemented rd n hn =>
    cases (exec_csrr_unimplemented hn rd s).symm.trans h
    exact ⟨rfl, exec_csrr_unimplemented hn rd _⟩
  | csrw_unimplemented n ra hn =>
    cases (exec_csrw_unimplemented hn ra s).symm.trans h
    exact ⟨rfl, exec_csrw_unimplemented hn ra _⟩
  | csrw c ra =>
    cases (exec_csrw_number c ra s).symm.trans h
    obtain ⟨-, hraw, -⟩ := writeCsr_outside c (s.getX ra) s
    exact ⟨hraw, (exec_csrw_number c ra _).trans (congrArg _ (writeCsr_withRaw c _ s raw'))⟩
  | bset slot v => exact absurd rfl (hbset slot v)
  | lupd => exact absurd rfl hlupd
  | nop => cases h; exact ⟨rfl, rfl⟩
  | x2f ra => cases h; exact ⟨rfl, rfl⟩
  | fclamp => cases h; exact ⟨rfl, rfl⟩
  | spalw idx val => cases h; exact ⟨rfl, rfl⟩
  | palrst => cases h; exact ⟨rfl, rfl⟩
  | rtrue => cases h; exact ⟨rfl, by rw [exec_rtrue, readFb_withRaw]⟩
  | rtext p => cases h; exact ⟨rfl, rfl⟩

/-! ## General registers (R11) -/

/-- With a register file that agrees on the registers it reads, a command that has no target does
the same and leaves that file. -/
theorem exec_withRegs_of_no_target {i : Instr} {s t : State} {x' : Vector Word 16}
    (h : exec i s = .next t) (hx : AgreesOnReads i s x') (hi : writesReg i = none) :
    exec i { s with x := x' } = .next { t with x := x' } := by
  induction i using instr_cases with
  | @writesValue i rd f hv => exact absurd (hv.target.symm.trans hi) (by simp)
  | csrr_unimplemented rd n hn => cases hi
  | csrw_unimplemented n ra hn =>
    cases (exec_csrw_unimplemented hn ra s).symm.trans h
    exact exec_csrw_unimplemented hn ra _
  | csrw c ra =>
    cases (exec_csrw_number c ra s).symm.trans h
    have hra : State.getX { s with x := x' } ra = s.getX ra := hx ra (by simp [readsReg])
    rw [exec_csrw_number, hra, writeCsr_withRegs]
  | x2f ra =>
    cases h
    have hra : State.getX { s with x := x' } ra = s.getX ra := hx ra (by simp [readsReg])
    rw [exec_x2f, hra]
    rfl
  | nop => cases h; rfl
  | fclamp => cases h; rfl
  | bset slot v => cases h; rfl
  | lupd => cases h; rfl
  | spalw idx val => cases h; rfl
  | palrst => cases h; rfl
  | rtrue => cases h; rw [exec_rtrue, readFb_withRegs]
  | rtext p => cases h; rfl

/-- With a register file that agrees on the registers it reads, a command that has a target puts the
same value there and does nothing else that differs. -/
theorem exec_withRegs_of_target {i : Instr} {s t : State} {x' : Vector Word 16} {rd : Reg}
    (h : exec i s = .next t) (hx : AgreesOnReads i s x') (hi : writesReg i = some rd) :
    exec i { s with x := x' } = .next (State.setX { t with x := x' } rd (t.getX rd)) := by
  induction i using instr_cases with
  | @writesValue i rd' f hv =>
    cases (hv.exec_eq s).symm.trans h
    cases hv.target.symm.trans hi
    rw [hv.exec_eq, hv.reads_only s x' hx, getX_setX_same]
    rfl
  | csrr_unimplemented rd' n hn =>
    cases (exec_csrr_unimplemented hn rd' s).symm.trans h
    cases hi
    have hrd : (s.setX rd 0).setUnimp.getX rd = 0 := getX_setX_same s rd 0
    rw [exec_csrr_unimplemented hn, hrd]
    rfl
  | csrw_unimplemented n ra hn => cases hi
  | csrw c ra => cases hi
  | nop => cases hi
  | x2f ra => cases hi
  | fclamp => cases hi
  | bset slot v => cases hi
  | lupd => cases hi
  | spalw idx val => cases hi
  | palrst => cases hi
  | rtrue => cases hi
  | rtext p => cases hi

/-- A command leaves every general register but its target: run on its own register file it does
what the two-run lemmas say. -/
theorem exec_getX_of_not_written {i : Instr} {s t : State} (h : exec i s = .next t) {r : Reg}
    (hr : writesReg i ≠ some r) : t.getX r = s.getX r := by
  have hx : AgreesOnReads i s s.x := fun _ _ => rfl
  cases hi : writesReg i with
  | none =>
    have ht : t = { t with x := s.x } :=
      Host.Outcome.next.inj (h.symm.trans (exec_withRegs_of_no_target h hx hi))
    exact getX_congr (congrArg State.x ht) r
  | some rd =>
    have ht : t = State.setX { t with x := s.x } rd (t.getX rd) :=
      Host.Outcome.next.inj (h.symm.trans (exec_withRegs_of_target h hx hi))
    have hne : r ≠ rd := fun e => hr (e ▸ hi)
    exact (congrArg (State.getX · r) ht).trans (getX_setX_other hne)

/-- Settles O59: by whether the command has a target register. -/
theorem commandsUseOnlyTheirRegisters : Obligations.CommandsUseOnlyTheirRegisters := by
  intro i s x' t h
  refine ⟨fun r hr => exec_getX_of_not_written h hr, fun hx => ?_⟩
  cases hi : writesReg i with
  | none => exact ⟨_, exec_withRegs_of_no_target h hx hi, rfl, by simp⟩
  | some rd =>
    refine ⟨_, exec_withRegs_of_target h hx hi, rfl, fun r hr => ?_⟩
    cases hr
    exact getX_setX_same _ _ _

/-! ## `UNIMP` (R13, R15, R16) -/

/-- A command that changes `UNIMP` has one of the two causes of R15 and R16. -/
theorem exec_unimp_cause {i : Instr} {s t : State} (h : exec i s = .next t)
    (hne : t.unimp ≠ s.unimp) : UnimpCause i s t := by
  induction i using instr_cases with
  | csrr_unimplemented rd n hn =>
    cases (exec_csrr_unimplemented hn rd s).symm.trans h
    exact .inl ⟨rfl, .inl ⟨rd, n, rfl, hn⟩⟩
  | csrw_unimplemented n ra hn =>
    cases (exec_csrw_unimplemented hn ra s).symm.trans h
    exact .inl ⟨rfl, .inr ⟨n, ra, rfl, hn⟩⟩
  | csrw c ra =>
    cases (exec_csrw_number c ra s).symm.trans h
    cases c with
    | status => exact .inr ⟨ra, rfl, rfl⟩
    | flo | fhi | dout | ptrx | ptry | ptrb => exact absurd rfl hne
  | @writesValue i rd f hi => cases (hi.exec_eq s).symm.trans h; exact absurd rfl hne
  | nop => cases h; exact absurd rfl hne
  | x2f ra => cases h; exact absurd rfl hne
  | fclamp => cases h; exact absurd rfl hne
  | bset slot v => cases h; exact absurd rfl hne
  | lupd => cases h; exact absurd rfl hne
  | spalw idx val => cases h; exact absurd rfl hne
  | palrst => cases h; exact absurd rfl hne
  | rtrue => cases h; exact absurd rfl hne
  | rtext p => cases h; exact absurd rfl hne

/-- Of the outside actions only the reset input reaches `UNIMP`. -/
theorem external_unimp_of_ne_reset {e : External} (he : e ≠ .reset) (s : State) :
    (external e s).unimp = s.unimp := by
  cases e with
  | reset => exact absurd rfl he
  | vmWrite a b =>
    simp only [external]
    split <;> rfl
  | prevWrite k b => rfl
  | pixWrite k b => rfl

/-- Settles O23: the four kinds of step of `step_cases`. -/
theorem unimpIsSticky : Obligations.UnimpIsSticky := by
  refine ⟨fun i s t => exec_unimp_cause, fun s t h hne => ?_⟩
  obtain ⟨-, rfl⟩ | ⟨e, rest, hp, rfl⟩ | ⟨w, e, rest, hp, hd, rfl⟩ | ⟨w, i, rest, hp, hd, hx⟩ :=
    step_cases h
  · exact absurd rfl hne
  · by_cases he : e = .reset
    · subst he
      exact .inl ⟨rest, hp, rfl⟩
    · exact absurd (external_unimp_of_ne_reset he _) hne
  · exact .inr ⟨w, rest, hp, .inl ⟨covers_eq_false_of_decode_error hd, rfl⟩⟩
  · have hcause : UnimpCause i { s with port := rest } t := exec_unimp_cause hx hne
    exact .inr ⟨w, rest, hp, .inr ⟨i, hd, hcause⟩⟩

/-! ## Reset (R31) -/

/-- The reset state holds the values of the table of R31. -/
theorem blockAtReset_reset : BlockAtReset State.reset :=
  ⟨by decide, fun c => by cases c <;> rfl, by decide, by decide, palGet_identityPalette⟩

/-- The reset input puts the block at reset, whatever was before. -/
theorem blockAtReset_resetBlock (s : State) : BlockAtReset (resetBlock s) := blockAtReset_reset

/-- Settles O12. -/
theorem resetInputRestoresBlock : Obligations.ResetInputRestoresBlock := by
  refine ⟨blockAtReset_reset, fun s rest hp => ⟨_, step_external hp, ?_⟩⟩
  exact ⟨blockAtReset_resetBlock _, ⟨fun _ => rfl, fun _ => rfl, fun _ => rfl⟩, rfl, rfl⟩

end Sys2Proof.Machine

/-! PROOFS. The framebuffer and the picture (20_memory.md R42, R43, R46): where a pixel stands in a
space of two pixels a byte, and where `RTRUE` puts it in `PIX`. -/

namespace Sys2Proof.Machine

/-! ## Two pixels in one byte (R43) -/

theorem toNat_lowNibble (b : Byte) : (b.extractLsb' 0 4).toNat = b.toNat % 16 := by
  simp [BitVec.extractLsb'_toNat]

theorem toNat_highNibble (b : Byte) : (b.extractLsb' 4 4).toNat = b.toNat / 16 := by
  have := b.isLt
  simp only [BitVec.extractLsb'_toNat, Nat.shiftRight_eq_div_pow]
  omega

theorem pixIdx_of_even (space : Nat → Byte) {x : Nat} (y : Nat) (hx : x % 2 = 0) :
    pixIdx space x y = (space (64 * y + x / 2)).extractLsb' 0 4 := if_pos hx

theorem pixIdx_of_odd (space : Nat → Byte) {x : Nat} (y : Nat) (hx : x % 2 ≠ 0) :
    pixIdx space x y = (space (64 * y + x / 2)).extractLsb' 4 4 := if_neg hx

/-- Settles O16: `MemRead` by definition, a pixel by the parity of its column. -/
theorem framebufferBytesAndPixels : Obligations.FramebufferBytesAndPixels := by
  refine ⟨fun s i _ => rfl, fun space x y _ _ => ?_⟩
  by_cases hx : x % 2 = 0
  · rw [pixIdx_of_even space y hx, toNat_lowNibble, if_pos hx]
  · rw [pixIdx_of_odd space y hx, toNat_highNibble, if_neg hx]

/-! ## The pixels of `PIX` (R46, 45_renderer.md R165) -/

/-- Pixel `(x, y)` of the frame, byte by byte: framebuffer byte `64*y + x/2` makes six bytes of the
frame, its low nibble the first three, and `6*(64*y + x/2) + 3*(x mod 2) = 3*(128*y + x)`. -/
theorem read_framePixels_pixel (master : BitVec 4 → BitVec 24) (p : Vector (BitVec 4) 16)
    (fb : Nat → Byte) {x y j : Nat} (hx : x ≤ 127) (hy : y ≤ 127) (hj : j < 3) :
    Memory.read (Memory.ofBytes 0 (framePixels master p fb)) (3 * (128 * y + x) + j)
      = (pixelBytes (trueColour master p (pixIdx fb x y))).getD j Memory.blank := by
  have hb : 64 * y + x / 2 < 8192 := by omega
  by_cases hpar : x % 2 = 0
  · have haddr : 3 * (128 * y + x) + j = 6 * (64 * y + x / 2) + j := by omega
    rw [haddr, read_framePixels master p fb hb (by omega), pixIdx_of_even fb y hpar]
    exact List.getD_append _ _ _ _ hj
  · have haddr : 3 * (128 * y + x) + j = 6 * (64 * y + x / 2) + (3 + j) := by omega
    rw [haddr, read_framePixels master p fb hb (by omega), pixIdx_of_odd fb y hpar]
    exact (List.getD_append_right _ _ _ _ (Nat.le_add_right 3 j)).trans
      (congrArg (List.getD _ · _) (Nat.add_sub_cancel_left 3 j))

/-- The frame lists no byte beyond the 49152 of `PIX`. -/
theorem below_framePixels (master : BitVec 4 → BitVec 24) (p : Vector (BitVec 4) 16)
    (fb : Nat → Byte) : Memory.below 49152 (Memory.ofBytes 0 (framePixels master p fb)) = true :=
  Memory.below_ofBytes (by rw [length_framePixels])

/-- Settles O52: pixels by `read_framePixels_pixel`; only the field `pix` is written. -/
theorem rtruePaintsEveryPixel : Obligations.RtruePaintsEveryPixel := by
  intro s
  obtain ⟨m, hexec, hm⟩ := exec_rtrue_pix s
  have hpixel : ∀ {x y j}, x ≤ 127 → y ≤ 127 → j < 3 →
      Memory.read m (3 * (128 * y + x) + j)
        = (pixelBytes (Config.master (s.getSpal (pixIdx s.readFb x y)))).getD j Memory.blank := by
    intro x y j hx hy hj
    rw [hm]
    exact read_framePixels_pixel Config.master s.spal s.readFb hx hy hj
  have hbelow : Memory.below 49152 m = true := hm ▸ below_framePixels _ _ _
  refine ⟨⟨by decide, by decide⟩, _, hexec, ?pixels, ?beyond, fun _ => rfl, fun _ => rfl,
    fun _ => rfl, fun c => readCsr_congr c rfl, fun _ => rfl, fun _ => rfl, fun _ => rfl, rfl, rfl⟩
  case pixels =>
    intro x y hx hy
    exact ⟨hpixel (j := 0) hx hy (by decide), hpixel (j := 1) hx hy (by decide),
      hpixel (j := 2) hx hy (by decide)⟩
  case beyond =>
    intro hpix a ha
    exact (Memory.read_of_below hbelow ha).trans (Memory.read_of_below hpix ha).symm

end Sys2Proof.Machine

/-! PROOFS. Decoding and encoding are inverse (30_encoding.md R61 to R67). Every word is an opcode,
two register fields and a 16-bit immediate. Per format, one lemma says what the words of its
commands are read as and which row covers them, and one that an accepted word is the command's. -/

namespace Sys2Proof

/-! ## A word is its four fields (R61) -/

theorem place_zero (n a : Nat) : place 0#n a = 0#32 := by
  simp [place]

/-- Two neighbouring fields are one wider field. -/
theorem place_append {m n : Nat} (hi : BitVec m) (lo : BitVec n) (a : Nat) :
    place (hi ++ lo) a = place hi (a + n) ||| place lo a := by
  apply BitVec.eq_of_getLsbD_eq
  intro i hi32
  rw [BitVec.getLsbD_or]
  simp only [getLsbD_place, BitVec.getLsbD_append, hi32, decide_true, Bool.true_and]
  by_cases ha : a ≤ i
  · by_cases hlo : i - a < n
    · have hbelow : ¬ a + n ≤ i := by omega
      simp [ha, hlo, hbelow]
    · have habove : a + n ≤ i := by omega
      have hend : lo.getLsbD (i - a) = false := BitVec.getLsbD_of_ge _ _ (by omega)
      simp [ha, hlo, habove, hend, Nat.sub_sub]
  · have hbelow : ¬ a + n ≤ i := by omega
    simp [ha, hbelow]

theorem place_zero_append {n : Nat} (k : Nat) (v : BitVec n) (a : Nat) :
    place (0#k ++ v) a = place v a := by
  rw [place_append, place_zero, BitVec.zero_or]

/-- The fields of R61 laid end to end. -/
theorem wordImm_eq_append (op : BitVec 8) (rd ra : Reg) (imm : BitVec 16) :
    wordImm op rd ra imm = op ++ rd ++ ra ++ imm := by
  have hwhole (w : Word) : place w 0 = w := by simp [place]
  rw [← hwhole (op ++ rd ++ ra ++ imm), place_append, place_append, place_append]
  rfl

/-- Two ranges of bits that meet, put together. -/
theorem extract_append_extract {k : Nat} (x : BitVec k) (a m n : Nat) :
    x.extractLsb' (a + n) m ++ x.extractLsb' a n = x.extractLsb' a (m + n) :=
  BitVec.extractLsb'_append_extractLsb'_eq_extractLsb' rfl

/-- A word is put together from its own fields. -/
theorem wordImm_fields (w : Word) : wordImm (opOf w) (rdOf w) (raOf w) (immOf w) = w := by
  have hrd : opOf w ++ rdOf w = w.extractLsb' 20 12 := extract_append_extract w 20 8 4
  have hra : w.extractLsb' 20 12 ++ raOf w = w.extractLsb' 16 16 :=
    extract_append_extract w 16 12 4
  rw [wordImm_eq_append, hrd, hra]
  exact BitVec.extractLsb'_append_extractLsb' (w := 16) (len := 16)

theorem wordImm_eq_of_fields {w : Word} {op : BitVec 8} {rd ra : Reg} {imm : BitVec 16}
    (hop : opOf w = op) (hrd : rdOf w = rd) (hra : raOf w = ra) (himm : immOf w = imm) :
    wordImm op rd ra imm = w := by
  rw [← hop, ← hrd, ← hra, ← himm, wordImm_fields]

/-- A mask that has the whole opcode and of the other fields only zero bits leaves the opcode. -/
theorem wordImm_and_eq {op : BitVec 8} {rd ra : Reg} {imm : BitVec 16} {m : Word}
    (hop : opOf m = BitVec.allOnes 8) (hrd : rd &&& rdOf m = 0) (hra : ra &&& raOf m = 0)
    (himm : imm &&& immOf m = 0) : wordImm op rd ra imm &&& m = place op 24 := by
  rw [← wordImm_fields m, wordImm_eq_append, wordImm_eq_append, BitVec.and_append,
    BitVec.and_append, BitVec.and_append, hop, hrd, hra, himm, BitVec.and_allOnes,
    ← wordImm_eq_append]
  simp [wordImm, place_zero]

/-! ## Immediates with bits that must be zero (R62, R64)

Per layout: the immediate that holds given operands, where they stand in it, which of its bits are
zero, and that an immediate in which these bits are zero is made of its operands. -/

/-- The immediate field of the register formats: `rb` in bits 15:12. -/
def regImm (rb : Reg) : BitVec 16 := rb ++ 0#12

theorem wordReg_eq_wordImm (op : BitVec 8) (rd ra rb : Reg) :
    wordReg op rd ra rb = wordImm op rd ra (regImm rb) := by
  have himm : place (regImm rb) 0 = place rb 12 :=
    (place_append rb 0#12 0).trans (by rw [place_zero, BitVec.or_zero])
  rw [wordReg, wordImm, himm]

theorem wordReg_zero_eq_wordImm (op : BitVec 8) (rd ra : Reg) :
    wordReg op rd ra 0 = wordImm op rd ra 0 := wordReg_eq_wordImm op rd ra 0

theorem regImm_and (rb : Reg) : regImm rb &&& 0x0FFF = 0 :=
  (BitVec.and_append (x₂ := 0#4) (y₂ := 0xFFF#12)).trans (by simp)

theorem immOf_rb (w : Word) : (immOf w).extractLsb' 12 4 = rbOf w := by
  apply BitVec.eq_of_getLsbD_eq
  intro i hi
  simp [immOf, rbOf, hi]

theorem regImm_rb {w : Word} (h : (immOf w).extractLsb' 0 12 = 0#12) :
    regImm (rbOf w) = immOf w := by
  rw [regImm, ← immOf_rb, ← h]
  exact BitVec.extractLsb'_append_extractLsb' (w := 4) (len := 12)

/-- A slot in bits 5:0. -/
def slotImm (slot : Slot) : BitVec 16 := 0#10 ++ slot

@[simp] theorem slotImm_low (slot : Slot) : (slotImm slot).extractLsb' 0 6 = slot :=
  BitVec.extractLsb'_append_eq_right

theorem slotImm_and (slot : Slot) : slotImm slot &&& 0xFFC0 = 0 :=
  (BitVec.and_append (x₂ := 0x3FF#10) (y₂ := 0#6)).trans (by simp)

theorem slotImm_slot {imm : BitVec 16} (h : imm.extractLsb' 6 10 = 0#10) :
    slotImm (imm.extractLsb' 0 6) = imm := by
  rw [slotImm, ← h]
  exact BitVec.extractLsb'_append_extractLsb' (w := 10) (len := 6)

/-- A palette index in bits 3:0. -/
def idxImm (idx : PalIdx) : BitVec 16 := 0#12 ++ idx

@[simp] theorem idxImm_low (idx : PalIdx) : (idxImm idx).extractLsb' 0 4 = idx :=
  BitVec.extractLsb'_append_eq_right

theorem idxImm_and (idx : PalIdx) : idxImm idx &&& 0xFFF0 = 0 :=
  (BitVec.and_append (x₂ := 0xFFF#12) (y₂ := 0#4)).trans (by simp)

theorem idxImm_idx {imm : BitVec 16} (h : imm.extractLsb' 4 12 = 0#12) :
    idxImm (imm.extractLsb' 0 4) = imm := by
  rw [idxImm, ← h]
  exact BitVec.extractLsb'_append_extractLsb' (w := 12) (len := 4)

/-- A bit as a field of width one. -/
theorem ofBool_getLsbD {k : Nat} (x : BitVec k) (a : Nat) :
    BitVec.ofBool (x.getLsbD a) = x.extractLsb' a 1 := by
  apply BitVec.eq_of_getLsbD_eq
  intro i hi
  simp [Nat.lt_one_iff.mp hi]

/-- A flag in bit 0. -/
def flagImm (p : Bool) : BitVec 16 := 0#15 ++ BitVec.ofBool p

@[simp] theorem flagImm_low (p : Bool) : (flagImm p)[0] = p := by
  cases p <;> rfl

theorem flagImm_and (p : Bool) : flagImm p &&& 0xFFFE = 0 :=
  (BitVec.and_append (x₂ := 0x7FFF#15) (y₂ := 0#1)).trans (by simp)

theorem flagImm_flag {imm : BitVec 16} (h : imm.extractLsb' 1 15 = 0#15) :
    flagImm (imm.getLsbD 0) = imm := by
  rw [flagImm, ofBool_getLsbD, ← h]
  exact BitVec.extractLsb'_append_extractLsb' (w := 15) (len := 1)

/-- The immediate of `BSET`: the slot in bits 5:0, the level in bit 8. -/
def slotFlagImm (slot : Slot) (v : Bool) : BitVec 16 := 0#7 ++ BitVec.ofBool v ++ (0#2 ++ slot)

@[simp] theorem slotFlagImm_slot (slot : Slot) (v : Bool) :
    (slotFlagImm slot v).extractLsb' 0 6 = slot :=
  (BitVec.extractLsb'_append_eq_of_add_le (by decide)).trans BitVec.extractLsb'_append_eq_right

@[simp] theorem slotFlagImm_flag (slot : Slot) (v : Bool) :
    (slotFlagImm slot v)[8] = v := by
  rw [← BitVec.getLsbD_eq_getElem]
  exact BitVec.getLsbD_append.trans (by cases v <;> rfl)

theorem slotFlagImm_and (slot : Slot) (v : Bool) : slotFlagImm slot v &&& 0xFEC0 = 0 :=
  (BitVec.and_append (x₂ := 0x7F#7 ++ 0#1) (y₂ := 0x3#2 ++ 0#6)).trans
    (by rw [BitVec.and_append, BitVec.and_append]; simp)

theorem slotFlagImm_operands {imm : BitVec 16} (h6 : imm.extractLsb' 6 2 = 0#2)
    (h9 : imm.extractLsb' 9 7 = 0#7) :
    slotFlagImm (imm.extractLsb' 0 6) (imm.getLsbD 8) = imm := by
  have hlow := extract_append_extract imm 0 2 6
  have hhigh := extract_append_extract imm 8 7 1
  rw [h6] at hlow
  rw [h9] at hhigh
  rw [slotFlagImm, ofBool_getLsbD, hlow, hhigh]
  exact BitVec.extractLsb'_append_extractLsb' (w := 8) (len := 8)

/-- The immediate of `SPALW`: the index in bits 3:0, the value in bits 11:8. -/
def idxValImm (idx : PalIdx) (val : ColIdx) : BitVec 16 := 0#4 ++ val ++ (0#4 ++ idx)

@[simp] theorem idxValImm_idx (idx : PalIdx) (val : ColIdx) :
    (idxValImm idx val).extractLsb' 0 4 = idx :=
  (BitVec.extractLsb'_append_eq_of_add_le (by decide)).trans BitVec.extractLsb'_append_eq_right

@[simp] theorem idxValImm_val (idx : PalIdx) (val : ColIdx) :
    (idxValImm idx val).extractLsb' 8 4 = val :=
  (BitVec.extractLsb'_append_eq_of_le (by decide)).trans BitVec.extractLsb'_append_eq_right

theorem idxValImm_and (idx : PalIdx) (val : ColIdx) : idxValImm idx val &&& 0xF0F0 = 0 :=
  (BitVec.and_append (x₂ := 0xF#4 ++ 0#4) (y₂ := 0xF#4 ++ 0#4)).trans
    (by rw [BitVec.and_append, BitVec.and_append]; simp)

theorem idxValImm_operands {imm : BitVec 16} (h4 : imm.extractLsb' 4 4 = 0#4)
    (h12 : imm.extractLsb' 12 4 = 0#4) :
    idxValImm (imm.extractLsb' 0 4) (imm.extractLsb' 8 4) = imm := by
  have hlow := extract_append_extract imm 0 4 4
  have hhigh := extract_append_extract imm 8 4 4
  rw [h4] at hlow
  rw [h12] at hhigh
  rw [idxValImm, hlow, hhigh]
  exact BitVec.extractLsb'_append_extractLsb' (w := 8) (len := 8)

/-! ## Command words with packed immediates -/

theorem wordImm_slotImm (op : BitVec 8) (rd : Reg) (slot : Slot) :
    wordImm op rd 0 (slotImm slot) = place op 24 ||| place rd 20 ||| place slot 0 := by
  have himm : place (slotImm slot) 0 = place slot 0 := place_zero_append 10 slot 0
  simp [wordImm, himm, place_zero]

theorem wordImm_idxImm (op : BitVec 8) (rd : Reg) (idx : PalIdx) :
    wordImm op rd 0 (idxImm idx) = place op 24 ||| place rd 20 ||| place idx 0 := by
  have himm : place (idxImm idx) 0 = place idx 0 := place_zero_append 12 idx 0
  simp [wordImm, himm, place_zero]

theorem encode_rtext (p : Bool) : encode (.rtext p) = wordImm 0x54 0 0 (flagImm p) := by
  have himm : place (flagImm p) 0 = place (BitVec.ofBool p) 0 := place_zero_append 15 _ 0
  simp [encode, wordImm, himm, place_zero]

theorem encode_bset (slot : Slot) (v : Bool) :
    encode (.bset slot v) = wordImm 0x40 0 0 (slotFlagImm slot v) := by
  have himm : place (slotFlagImm slot v) 0 = place (BitVec.ofBool v) 8 ||| place slot 0 :=
    (place_append (0#7 ++ BitVec.ofBool v) (0#2 ++ slot) 0).trans
      (by rw [place_zero_append, place_zero_append])
  simp [encode, wordImm, himm, place_zero, BitVec.or_assoc]

theorem encode_spalw (idx : PalIdx) (val : ColIdx) :
    encode (.spalw idx val) = wordImm 0x50 0 0 (idxValImm idx val) := by
  have himm : place (idxValImm idx val) 0 = place val 8 ||| place idx 0 :=
    (place_append (0#4 ++ val) (0#4 ++ idx) 0).trans
      (by rw [place_zero_append, place_zero_append])
  simp [encode, wordImm, himm, place_zero, BitVec.or_assoc]

/-! ## The word of given operands: where it lies and what it is read as

Per format: the mask of its rows is the opcode and the bits its operands leave zero. -/

section Read
variable (op : BitVec 8)

/-- A command whose word has the fields of `wordImm op rd ra imm` falls under the opcode and the
bits of `m` its fields leave zero, and decodes if its format reads it. -/
theorem encodedAs_of_fields {op : BitVec 8} {i : Instr} {rd ra : Reg} {imm : BitVec 16} {m : Word}
    {r : Word → Except Reject Instr} (henc : encode i = wordImm op rd ra imm)
    (hdec : ∀ w, opOf w = op → decode w = r w) (hread : r (wordImm op rd ra imm) = .ok i)
    (hop : opOf m = BitVec.allOnes 8) (hrd : rd &&& rdOf m = 0) (hra : ra &&& raOf m = 0)
    (himm : imm &&& immOf m = 0) : Machine.EncodedAs i (place op 24) m := by
  refine ⟨?mask, ?read⟩
  case mask => rw [henc, wordImm_and_eq hop hrd hra himm]
  case read => rw [henc, hdec _ (opOf_wordImm op rd ra imm), hread]

theorem encodedAs_fmtZ (i : Instr)
    (hdec : ∀ w, opOf w = op → decode w = fmtZ w i := by intro w h; rw [decode, h]; rfl)
    (henc : encode i = wordReg op 0 0 0 := by rfl) :
    Machine.EncodedAs i (place op 24) 0xFFFFFFFF :=
  encodedAs_of_fields (henc.trans (wordReg_zero_eq_wordImm op 0 0)) hdec
    (by simp [fmtZ, require]) rfl BitVec.zero_and BitVec.zero_and BitVec.zero_and

theorem encodedAs_fmtD (mk : Reg → Instr) (rd : Reg)
    (hdec : ∀ w, opOf w = op → decode w = fmtD w mk := by intro w h; rw [decode, h]; rfl)
    (henc : encode (mk rd) = wordReg op rd 0 0 := by rfl) :
    Machine.EncodedAs (mk rd) (place op 24) 0xFF0FFFFF :=
  encodedAs_of_fields (henc.trans (wordReg_zero_eq_wordImm op rd 0)) hdec
    (by simp [fmtD, require]) rfl BitVec.and_zero BitVec.zero_and BitVec.zero_and

theorem encodedAs_fmtA (mk : Reg → Instr) (ra : Reg)
    (hdec : ∀ w, opOf w = op → decode w = fmtA w mk := by intro w h; rw [decode, h]; rfl)
    (henc : encode (mk ra) = wordReg op 0 ra 0 := by rfl) :
    Machine.EncodedAs (mk ra) (place op 24) 0xFFF0FFFF :=
  encodedAs_of_fields (henc.trans (wordReg_zero_eq_wordImm op 0 ra)) hdec
    (by simp [fmtA, require]) rfl BitVec.zero_and BitVec.and_zero BitVec.zero_and

theorem encodedAs_fmtDA (mk : Reg → Reg → Instr) (rd ra : Reg)
    (hdec : ∀ w, opOf w = op → decode w = fmtDA w mk := by intro w h; rw [decode, h]; rfl)
    (henc : encode (mk rd ra) = wordReg op rd ra 0 := by rfl) :
    Machine.EncodedAs (mk rd ra) (place op 24) 0xFF00FFFF :=
  encodedAs_of_fields (henc.trans (wordReg_zero_eq_wordImm op rd ra)) hdec
    (by simp [fmtDA, require]) rfl BitVec.and_zero BitVec.and_zero BitVec.zero_and

theorem encodedAs_fmtDAB (mk : Reg → Reg → Reg → Instr) (rd ra rb : Reg)
    (hdec : ∀ w, opOf w = op → decode w = fmtDAB w mk := by intro w h; rw [decode, h]; rfl)
    (henc : encode (mk rd ra rb) = wordReg op rd ra rb := by rfl) :
    Machine.EncodedAs (mk rd ra rb) (place op 24) 0xFF000FFF :=
  encodedAs_of_fields (r := (fmtDAB · mk)) (henc.trans (wordReg_eq_wordImm op rd ra rb)) hdec
    (by simp [fmtDAB, require, ← wordReg_eq_wordImm]) rfl BitVec.and_zero
    BitVec.and_zero (regImm_and rb)

theorem encodedAs_fmtDI (mk : Reg → BitVec 16 → Instr) (rd : Reg) (imm : BitVec 16)
    (hdec : ∀ w, opOf w = op → decode w = fmtDI w mk := by intro w h; rw [decode, h]; rfl)
    (henc : encode (mk rd imm) = wordImm op rd 0 imm := by rfl) :
    Machine.EncodedAs (mk rd imm) (place op 24) 0xFF0F0000 :=
  encodedAs_of_fields henc hdec
    (by simp [fmtDI, require]) rfl BitVec.and_zero BitVec.zero_and BitVec.and_zero

theorem encodedAs_fmtAI (mk : BitVec 16 → Reg → Instr) (imm : BitVec 16) (ra : Reg)
    (hdec : ∀ w, opOf w = op → decode w = fmtAI w mk := by intro w h; rw [decode, h]; rfl)
    (henc : encode (mk imm ra) = wordImm op 0 ra imm := by rfl) :
    Machine.EncodedAs (mk imm ra) (place op 24) 0xFFF00000 :=
  encodedAs_of_fields henc hdec
    (by simp [fmtAI, require]) rfl BitVec.zero_and BitVec.and_zero BitVec.and_zero

theorem encodedAs_fmtDSlot (mk : Reg → Slot → Instr) (rd : Reg) (slot : Slot)
    (hdec : ∀ w, opOf w = op → decode w = fmtDSlot w mk := by intro w h; rw [decode, h]; rfl)
    (henc : encode (mk rd slot) = place op 24 ||| place rd 20 ||| place slot 0 := by rfl) :
    Machine.EncodedAs (mk rd slot) (place op 24) 0xFF0FFFC0 := by
  have hhigh : (slotImm slot).extractLsb' 6 10 = 0 :=
    extractLsb'_eq_zero_of_and (slotImm_and slot) (by decide)
  exact encodedAs_of_fields (henc.trans (wordImm_slotImm op rd slot).symm) hdec
    (by simp [fmtDSlot, require, hhigh]) rfl BitVec.and_zero BitVec.zero_and (slotImm_and slot)

theorem encodedAs_fmtDIdx (mk : Reg → PalIdx → Instr) (rd : Reg) (idx : PalIdx)
    (hdec : ∀ w, opOf w = op → decode w = fmtDIdx w mk := by intro w h; rw [decode, h]; rfl)
    (henc : encode (mk rd idx) = place op 24 ||| place rd 20 ||| place idx 0 := by rfl) :
    Machine.EncodedAs (mk rd idx) (place op 24) 0xFF0FFFF0 := by
  have hhigh : (idxImm idx).extractLsb' 4 12 = 0 :=
    extractLsb'_eq_zero_of_and (idxImm_and idx) (by decide)
  exact encodedAs_of_fields (henc.trans (wordImm_idxImm op rd idx).symm) hdec
    (by simp [fmtDIdx, require, hhigh]) rfl BitVec.and_zero BitVec.zero_and (idxImm_and idx)

theorem encodedAs_bset (slot : Slot) (v : Bool) :
    Machine.EncodedAs (.bset slot v) (place 0x40#8 24) 0xFFFFFEC0 := by
  have hslot : (slotFlagImm slot v).extractLsb' 6 2 = 0 :=
    extractLsb'_eq_zero_of_and (slotFlagImm_and slot v) (by decide)
  have hflag : (slotFlagImm slot v).extractLsb' 9 7 = 0 :=
    extractLsb'_eq_zero_of_and (slotFlagImm_and slot v) (by decide)
  exact encodedAs_of_fields (r := (fmtSlotFlag · .bset)) (encode_bset slot v)
    (by intro w h; rw [decode, h]; rfl) (by simp [fmtSlotFlag, require, hslot, hflag]) rfl
    BitVec.zero_and BitVec.zero_and (slotFlagImm_and slot v)

theorem encodedAs_spalw (idx : PalIdx) (val : ColIdx) :
    Machine.EncodedAs (.spalw idx val) (place 0x50#8 24) 0xFFFFF0F0 := by
  have hidx : (idxValImm idx val).extractLsb' 4 4 = 0 :=
    extractLsb'_eq_zero_of_and (idxValImm_and idx val) (by decide)
  have hval : (idxValImm idx val).extractLsb' 12 4 = 0 :=
    extractLsb'_eq_zero_of_and (idxValImm_and idx val) (by decide)
  exact encodedAs_of_fields (r := (fmtIdxVal · .spalw)) (encode_spalw idx val)
    (by intro w h; rw [decode, h]; rfl) (by simp [fmtIdxVal, require, hidx, hval]) rfl
    BitVec.zero_and BitVec.zero_and (idxValImm_and idx val)

theorem encodedAs_rtext (p : Bool) :
    Machine.EncodedAs (.rtext p) (place 0x54#8 24) 0xFFFFFFFE := by
  have hhigh : (flagImm p).extractLsb' 1 15 = 0 :=
    extractLsb'_eq_zero_of_and (flagImm_and p) (by decide)
  exact encodedAs_of_fields (r := (fmtFlag · .rtext)) (encode_rtext p)
    (by intro w h; rw [decode, h]; rfl) (by simp [fmtFlag, require, hhigh]) rfl
    BitVec.zero_and BitVec.zero_and (flagImm_and p)

end Read

/-! ## Every command is covered by its row and decodes -/

/-- The row of a command whose word lies where a row with its mnemonic says. -/
theorem exists_row_of_encodedAs {i : Instr} {p m : Word} (h : Machine.EncodedAs i p m)
    (hrow : OpRow.mk i.line.op p m ∈ opTable := by dsimp only [Instr.line]; decide) :
    ∃ row ∈ opTable, row.op = i.line.op ∧ Machine.EncodedAs i row.pat row.mask :=
  ⟨_, hrow, rfl, h⟩

/-- Every command lies where the row of its mnemonic says and decodes, format by format. -/
theorem exists_row_encodedAs (i : Instr) :
    ∃ row ∈ opTable, row.op = i.line.op ∧ Machine.EncodedAs i row.pat row.mask := by
  cases i with
  | nop => exact exists_row_of_encodedAs (encodedAs_fmtZ 0x00 .nop)
  | lih rd imm => exact exists_row_of_encodedAs (encodedAs_fmtDI 0x01 .lih rd imm)
  | lil rd imm => exact exists_row_of_encodedAs (encodedAs_fmtDI 0x02 .lil rd imm)
  | mov rd ra => exact exists_row_of_encodedAs (encodedAs_fmtDA 0x03 .mov rd ra)
  | csrr rd csr => exact exists_row_of_encodedAs (encodedAs_fmtDI 0x04 .csrr rd csr)
  | csrw csr ra => exact exists_row_of_encodedAs (encodedAs_fmtAI 0x05 .csrw csr ra)
  | f2x rd => exact exists_row_of_encodedAs (encodedAs_fmtD 0x10 .f2x rd)
  | x2f ra => exact exists_row_of_encodedAs (encodedAs_fmtA 0x11 .x2f ra)
  | fclamp => exact exists_row_of_encodedAs (encodedAs_fmtZ 0x12 .fclamp)
  | sgn rd ra => exact exists_row_of_encodedAs (encodedAs_fmtDA 0x20 .sgn rd ra)
  | sqrt rd ra => exact exists_row_of_encodedAs (encodedAs_fmtDA 0x21 .sqrt rd ra)
  | band rd ra rb => exact exists_row_of_encodedAs (encodedAs_fmtDAB 0x22 .band rd ra rb)
  | bor rd ra rb => exact exists_row_of_encodedAs (encodedAs_fmtDAB 0x23 .bor rd ra rb)
  | bxor rd ra rb => exact exists_row_of_encodedAs (encodedAs_fmtDAB 0x24 .bxor rd ra rb)
  | bnot rd ra => exact exists_row_of_encodedAs (encodedAs_fmtDA 0x25 .bnot rd ra)
  | shl rd ra rb => exact exists_row_of_encodedAs (encodedAs_fmtDAB 0x26 .shl rd ra rb)
  | shr rd ra rb => exact exists_row_of_encodedAs (encodedAs_fmtDAB 0x27 .shr rd ra rb)
  | cos rd ra => exact exists_row_of_encodedAs (encodedAs_fmtDA 0x30 .cos rd ra)
  | sin rd ra => exact exists_row_of_encodedAs (encodedAs_fmtDA 0x31 .sin rd ra)
  | atan2 rd ra rb => exact exists_row_of_encodedAs (encodedAs_fmtDAB 0x32 .atan2 rd ra rb)
  | bset slot v => exact exists_row_of_encodedAs (encodedAs_bset slot v)
  | lupd => exact exists_row_of_encodedAs (encodedAs_fmtZ 0x41 .lupd)
  | btn rd slot => exact exists_row_of_encodedAs (encodedAs_fmtDSlot 0x42 .btn rd slot)
  | btnp rd slot => exact exists_row_of_encodedAs (encodedAs_fmtDSlot 0x43 .btnp rd slot)
  | btnm rd => exact exists_row_of_encodedAs (encodedAs_fmtD 0x44 .btnm rd)
  | btnpm rd => exact exists_row_of_encodedAs (encodedAs_fmtD 0x45 .btnpm rd)
  | held rd slot => exact exists_row_of_encodedAs (encodedAs_fmtDSlot 0x46 .held rd slot)
  | spalw idx val => exact exists_row_of_encodedAs (encodedAs_spalw idx val)
  | spalr rd idx => exact exists_row_of_encodedAs (encodedAs_fmtDIdx 0x51 .spalr rd idx)
  | palrst => exact exists_row_of_encodedAs (encodedAs_fmtZ 0x52 .palrst)
  | rtrue => exact exists_row_of_encodedAs (encodedAs_fmtZ 0x53 .rtrue)
  | rtext p => exact exists_row_of_encodedAs (encodedAs_rtext p)

/-- No two rows of the table have the same mnemonic. -/
theorem opTable_eq_of_op_eq {r₁ r₂ : OpRow} (h₁ : r₁ ∈ opTable) (h₂ : r₂ ∈ opTable)
    (h : r₁.op = r₂.op) : r₁ = r₂ :=
  List.inj_on_of_nodup_map (f := OpRow.op) (by decide) h₁ h₂ h

/-- What each command's own statement says of its word: it falls under the row of its mnemonic and
decodes (30_encoding.md R63, R65). -/
theorem encodedAs_of_row {i : Instr} {o : Op} {p m : Word} (hrow : OpRow.mk o p m ∈ opTable)
    (ho : i.line.op = o) : Machine.EncodedAs i p m := by
  obtain ⟨row, hmem, hop, henc⟩ := exists_row_encodedAs i
  rw [opTable_eq_of_op_eq hmem hrow (hop.trans ho)] at henc
  exact henc

@[simp] theorem decode_encode (i : Instr) : decode (encode i) = .ok i := by
  obtain ⟨_, -, -, -, hdec⟩ := exists_row_encodedAs i
  exact hdec

/-! ## A word that decodes is the word of its command -/

theorem require_eq_ok_iff {w : Word} {ok : Bool} {i j : Instr} :
    require w ok i = .ok j ↔ ok = true ∧ i = j := by
  cases ok <;> simp [require]

section Accepted
variable {w : Word} {j : Instr}

section
variable {op : BitVec 8} (hop : (opOf w).toNat = op.toNat)
include hop

theorem encode_of_fmtZ {i : Instr} (h : fmtZ w i = .ok j)
    (henc : encode i = wordReg op 0 0 0 := by intros; rfl) : encode j = w := by
  simp only [fmtZ, require_eq_ok_iff, Bool.and_eq_true, beq_iff_eq] at h
  obtain ⟨⟨⟨hrd, hra⟩, himm⟩, rfl⟩ := h
  rw [henc, wordReg_zero_eq_wordImm]
  exact wordImm_eq_of_fields (BitVec.eq_of_toNat_eq hop) hrd hra himm

theorem encode_of_fmtD {mk : Reg → Instr} (h : fmtD w mk = .ok j)
    (henc : ∀ rd, encode (mk rd) = wordReg op rd 0 0 := by intros; rfl) : encode j = w := by
  simp only [fmtD, require_eq_ok_iff, Bool.and_eq_true, beq_iff_eq] at h
  obtain ⟨⟨hra, himm⟩, rfl⟩ := h
  rw [henc, wordReg_zero_eq_wordImm]
  exact wordImm_eq_of_fields (BitVec.eq_of_toNat_eq hop) rfl hra himm

theorem encode_of_fmtA {mk : Reg → Instr} (h : fmtA w mk = .ok j)
    (henc : ∀ ra, encode (mk ra) = wordReg op 0 ra 0 := by intros; rfl) : encode j = w := by
  simp only [fmtA, require_eq_ok_iff, Bool.and_eq_true, beq_iff_eq] at h
  obtain ⟨⟨hrd, himm⟩, rfl⟩ := h
  rw [henc, wordReg_zero_eq_wordImm]
  exact wordImm_eq_of_fields (BitVec.eq_of_toNat_eq hop) hrd rfl himm

theorem encode_of_fmtDA {mk : Reg → Reg → Instr} (h : fmtDA w mk = .ok j)
    (henc : ∀ rd ra, encode (mk rd ra) = wordReg op rd ra 0 := by intros; rfl) :
    encode j = w := by
  simp only [fmtDA, require_eq_ok_iff, beq_iff_eq] at h
  obtain ⟨himm, rfl⟩ := h
  rw [henc, wordReg_zero_eq_wordImm]
  exact wordImm_eq_of_fields (BitVec.eq_of_toNat_eq hop) rfl rfl himm

theorem encode_of_fmtDAB {mk : Reg → Reg → Reg → Instr} (h : fmtDAB w mk = .ok j)
    (henc : ∀ rd ra rb, encode (mk rd ra rb) = wordReg op rd ra rb := by intros; rfl) :
    encode j = w := by
  simp only [fmtDAB, require_eq_ok_iff, beq_iff_eq] at h
  obtain ⟨hlow, rfl⟩ := h
  rw [henc, wordReg_eq_wordImm]
  exact wordImm_eq_of_fields (BitVec.eq_of_toNat_eq hop) rfl rfl (regImm_rb hlow).symm

theorem encode_of_fmtDI {mk : Reg → BitVec 16 → Instr} (h : fmtDI w mk = .ok j)
    (henc : ∀ rd imm, encode (mk rd imm) = wordImm op rd 0 imm := by intros; rfl) :
    encode j = w := by
  simp only [fmtDI, require_eq_ok_iff, beq_iff_eq] at h
  obtain ⟨hra, rfl⟩ := h
  rw [henc]
  exact wordImm_eq_of_fields (BitVec.eq_of_toNat_eq hop) rfl hra rfl

theorem encode_of_fmtAI {mk : BitVec 16 → Reg → Instr} (h : fmtAI w mk = .ok j)
    (henc : ∀ imm ra, encode (mk imm ra) = wordImm op 0 ra imm := by intros; rfl) :
    encode j = w := by
  simp only [fmtAI, require_eq_ok_iff, beq_iff_eq] at h
  obtain ⟨hrd, rfl⟩ := h
  rw [henc]
  exact wordImm_eq_of_fields (BitVec.eq_of_toNat_eq hop) hrd rfl rfl

theorem encode_of_fmtDSlot {mk : Reg → Slot → Instr} (h : fmtDSlot w mk = .ok j)
    (henc : ∀ rd slot, encode (mk rd slot) = place op 24 ||| place rd 20 ||| place slot 0 := by
      intros; rfl) : encode j = w := by
  simp only [fmtDSlot, require_eq_ok_iff, Bool.and_eq_true, beq_iff_eq] at h
  obtain ⟨⟨hra, hhigh⟩, rfl⟩ := h
  rw [henc, ← wordImm_slotImm]
  exact wordImm_eq_of_fields (BitVec.eq_of_toNat_eq hop) rfl hra (slotImm_slot hhigh).symm

theorem encode_of_fmtDIdx {mk : Reg → PalIdx → Instr} (h : fmtDIdx w mk = .ok j)
    (henc : ∀ rd idx, encode (mk rd idx) = place op 24 ||| place rd 20 ||| place idx 0 := by
      intros; rfl) : encode j = w := by
  simp only [fmtDIdx, require_eq_ok_iff, Bool.and_eq_true, beq_iff_eq] at h
  obtain ⟨⟨hra, hhigh⟩, rfl⟩ := h
  rw [henc, ← wordImm_idxImm]
  exact wordImm_eq_of_fields (BitVec.eq_of_toNat_eq hop) rfl hra (idxImm_idx hhigh).symm

end

theorem encode_of_bset (hop : (opOf w).toNat = 0x40) (h : fmtSlotFlag w .bset = .ok j) :
    encode j = w := by
  simp only [fmtSlotFlag, require_eq_ok_iff, Bool.and_eq_true, beq_iff_eq] at h
  obtain ⟨⟨⟨⟨hrd, hra⟩, hslot⟩, hflag⟩, rfl⟩ := h
  rw [encode_bset]
  exact wordImm_eq_of_fields (BitVec.eq_of_toNat_eq hop) hrd hra
    (slotFlagImm_operands hslot hflag).symm

theorem encode_of_spalw (hop : (opOf w).toNat = 0x50) (h : fmtIdxVal w .spalw = .ok j) :
    encode j = w := by
  simp only [fmtIdxVal, require_eq_ok_iff, Bool.and_eq_true, beq_iff_eq] at h
  obtain ⟨⟨⟨⟨hrd, hra⟩, hidx⟩, hval⟩, rfl⟩ := h
  rw [encode_spalw]
  exact wordImm_eq_of_fields (BitVec.eq_of_toNat_eq hop) hrd hra (idxValImm_operands hidx hval).symm

theorem encode_of_rtext (hop : (opOf w).toNat = 0x54) (h : fmtFlag w .rtext = .ok j) :
    encode j = w := by
  simp only [fmtFlag, require_eq_ok_iff, Bool.and_eq_true, beq_iff_eq] at h
  obtain ⟨⟨⟨hrd, hra⟩, hhigh⟩, rfl⟩ := h
  rw [encode_rtext]
  exact wordImm_eq_of_fields (BitVec.eq_of_toNat_eq hop) hrd hra (flagImm_flag hhigh).symm

end Accepted

/-- The arms of the opcode map in their order (30_encoding.md R65). -/
theorem encode_of_decode {w : Word} {i : Instr} (h : decode w = .ok i) : encode i = w := by
  unfold decode at h
  split at h
  next hop => exact encode_of_fmtZ (op := 0x00) hop h
  next hop => exact encode_of_fmtDI (op := 0x01) hop h
  next hop => exact encode_of_fmtDI (op := 0x02) hop h
  next hop => exact encode_of_fmtDA (op := 0x03) hop h
  next hop => exact encode_of_fmtDI (op := 0x04) hop h
  next hop => exact encode_of_fmtAI (op := 0x05) hop h
  next hop => exact encode_of_fmtD (op := 0x10) hop h
  next hop => exact encode_of_fmtA (op := 0x11) hop h
  next hop => exact encode_of_fmtZ (op := 0x12) hop h
  next hop => exact encode_of_fmtDA (op := 0x20) hop h
  next hop => exact encode_of_fmtDA (op := 0x21) hop h
  next hop => exact encode_of_fmtDAB (op := 0x22) hop h
  next hop => exact encode_of_fmtDAB (op := 0x23) hop h
  next hop => exact encode_of_fmtDAB (op := 0x24) hop h
  next hop => exact encode_of_fmtDA (op := 0x25) hop h
  next hop => exact encode_of_fmtDAB (op := 0x26) hop h
  next hop => exact encode_of_fmtDAB (op := 0x27) hop h
  next hop => exact encode_of_fmtDA (op := 0x30) hop h
  next hop => exact encode_of_fmtDA (op := 0x31) hop h
  next hop => exact encode_of_fmtDAB (op := 0x32) hop h
  next hop => exact encode_of_bset hop h
  next hop => exact encode_of_fmtZ (op := 0x41) hop h
  next hop => exact encode_of_fmtDSlot (op := 0x42) hop h
  next hop => exact encode_of_fmtDSlot (op := 0x43) hop h
  next hop => exact encode_of_fmtD (op := 0x44) hop h
  next hop => exact encode_of_fmtD (op := 0x45) hop h
  next hop => exact encode_of_fmtDSlot (op := 0x46) hop h
  next hop => exact encode_of_spalw hop h
  next hop => exact encode_of_fmtDIdx (op := 0x51) hop h
  next hop => exact encode_of_fmtZ (op := 0x52) hop h
  next hop => exact encode_of_fmtZ (op := 0x53) hop h
  next hop => exact encode_of_rtext hop h
  next => cases h

theorem decode_eq_ok_iff {w : Word} {i : Instr} : decode w = .ok i ↔ encode i = w :=
  ⟨encode_of_decode, fun h => h ▸ decode_encode i⟩

end Sys2Proof

/-! PROOFS. The statements about command words: round trips, the table of R65, bytes and the spec's
examples (30_encoding.md R61 to R67, R72). -/

namespace Sys2Proof

/-! ## Bytes (R72) -/

/-- Four bytes that decode as a word are the command, and are all that is consumed. -/
theorem decodeBytes_of_decode {b0 b1 b2 b3 : Byte} {i : Instr}
    (h : decode (wordOfBytes b0 b1 b2 b3) = .ok i) (rest : List Byte) :
    decodeBytes (b0 :: b1 :: b2 :: b3 :: rest) = .ok (i, rest) := by
  simp [decodeBytes, h]

theorem decodeBytes_bytesOfWord {w : Word} {i : Instr} (h : decode w = .ok i)
    (rest : List Byte) : decodeBytes (bytesOfWord w ++ rest) = .ok (i, rest) :=
  decodeBytes_of_decode ((wordOfBytes_bytesOfWord w).symm ▸ h) rest

theorem decodeBytes_of_short {bs : List Byte} (h : bs.length < 4) :
    decodeBytes bs = .error (.partialWord bs.length) := by
  match bs with
  | [] => rfl
  | [_] => rfl
  | [_, _] => rfl
  | [_, _, _] => rfl
  | _ :: _ :: _ :: _ :: _ => simp only [List.length_cons] at h; omega

/-- The bytes of R72 laid end to end, byte 3 on top. -/
theorem wordOfBytes_eq_append (b0 b1 b2 b3 : Byte) :
    wordOfBytes b0 b1 b2 b3 = b3 ++ b2 ++ b1 ++ b0 := by
  have hwhole (w : Word) : place w 0 = w := by simp [place]
  rw [← hwhole (b3 ++ b2 ++ b1 ++ b0), place_append, place_append, place_append]
  rfl

/-- A number above another of `n` bits. -/
theorem toNat_append_eq_add {m n : Nat} (hi : BitVec m) (lo : BitVec n) :
    (hi ++ lo).toNat = 2 ^ n * hi.toNat + lo.toNat := by
  rw [BitVec.toNat_append, ← Nat.shiftLeft_add_eq_or_of_lt lo.isLt, Nat.shiftLeft_eq, Nat.mul_comm]

theorem toNat_wordOfBytes (b0 b1 b2 b3 : Byte) : (wordOfBytes b0 b1 b2 b3).toNat
    = b0.toNat + 0x100 * b1.toNat + 0x10000 * b2.toNat + 0x1000000 * b3.toNat := by
  rw [wordOfBytes_eq_append]
  calc (b3 ++ b2 ++ b1 ++ b0).toNat
      = 2 ^ 8 * (2 ^ 8 * (2 ^ 8 * b3.toNat + b2.toNat) + b1.toNat) + b0.toNat := by
        simp only [toNat_append_eq_add]
    _ = _ := by ring

/-! ## Rows (R63, R65) -/

theorem covers_iff {row : OpRow} {w : Word} : row.covers w = true ↔ w &&& row.mask = row.pat :=
  beq_iff_eq

/-- A row covers only words of its opcode. -/
theorem opOf_eq_of_covers {row : OpRow} {w : Word} (hrow : row ∈ opTable)
    (h : row.covers w = true) : opOf w = opOf row.pat := by
  have hmask : ∀ r ∈ opTable, opOf r.mask = BitVec.allOnes 8 := by decide
  exact opOf_of_and (covers_iff.mp h) (hmask row hrow)

/-- The rows have different opcodes, so no word falls under two of them. -/
theorem row_eq_of_covers {r₁ r₂ : OpRow} {w : Word} (hr₁ : r₁ ∈ opTable) (hr₂ : r₂ ∈ opTable)
    (h₁ : r₁.covers w = true) (h₂ : r₂.covers w = true) : r₁ = r₂ :=
  List.inj_on_of_nodup_map (f := fun r : OpRow => opOf r.pat) (by decide) hr₁ hr₂
    ((opOf_eq_of_covers hr₁ h₁).symm.trans (opOf_eq_of_covers hr₂ h₂))

/-- A word that decodes falls under the row of its command's mnemonic. -/
theorem covers_of_decode {w : Word} {i : Instr} (h : decode w = .ok i) :
    ∃ row ∈ opTable, row.op = i.line.op ∧ row.covers w = true := by
  obtain ⟨row, hrow, hop, hmask, -⟩ := exists_row_encodedAs i
  rw [encode_of_decode h] at hmask
  exact ⟨row, hrow, hop, covers_iff.mpr hmask⟩

/-! ## Statements -/

/-- Settles O1, from the row of each command (`exists_row_encodedAs`). -/
theorem decodeEncodeEveryCommand : Obligations.DecodeEncodeEveryCommand :=
  fun i => ⟨decode_encode i, decodeBytes_bytesOfWord (decode_encode i)⟩

/-- Settles O2, by the arms of the opcode map (`encode_of_decode`). -/
theorem encodeDecodeEveryWord : Obligations.EncodeDecodeEveryWord :=
  fun _ _ => encode_of_decode

/-- Settles O4: the rows differ in their opcodes, a covered word decodes, and a word that decodes is
the command's own, which its row covers. -/
theorem tableRowsDecideDecoding : Obligations.TableRowsDecideDecoding := by
  intro w
  refine ⟨⟨?covered, ?decodes⟩, fun _ hr₁ _ hr₂ => row_eq_of_covers hr₁ hr₂, ?mnemonic⟩
  case covered =>
    rintro ⟨i, hi⟩
    obtain ⟨row, hrow, -, hcov⟩ := covers_of_decode hi
    exact ⟨row, hrow, hcov⟩
  case decodes =>
    rintro ⟨row, hrow, hcov⟩
    exact decode_ok_of_covers hrow hcov
  case mnemonic =>
    intro i hi row hrow hcov
    obtain ⟨own, hown, hop, hcov'⟩ := covers_of_decode hi
    rw [← hop, row_eq_of_covers hown hrow hcov' hcov]

/-- Settles O6. -/
theorem littleEndianCommandBytes : Obligations.LittleEndianCommandBytes :=
  ⟨toNat_wordOfBytes, fun w => ⟨_, _, _, _, rfl, wordOfBytes_bytesOfWord w⟩,
    fun _ _ _ _ rest _ h => decodeBytes_of_decode h rest, fun _ => decodeBytes_of_short,
    by decide, by decide, by decide⟩

/-- Settles O5: the accepted words are those their commands are encoded as. -/
theorem specWordsDecode : Obligations.SpecWordsDecode := by
  refine ⟨?_, ?_, ?_, ?_, ?_, ?_, ?_, ?_, ?reserved⟩
  case reserved => decide
  all_goals exact decode_eq_ok_iff.mpr (by decide)

end Sys2Proof

/-! PROOFS. Source lines (30_encoding.md R64, R70): the lines that pass the check are exactly the
written forms of the commands. -/

namespace Sys2Proof

/-- Every command passes the check, since its operands have their fields' widths. -/
theorem wellFormed_line (i : Instr) : i.line.wellFormed = true := by
  cases i with
  | nop => exact Laws.OperandsFit.nop
  | lih rd imm => exact Laws.OperandsFit.lih rd imm
  | lil rd imm => exact Laws.OperandsFit.lil rd imm
  | mov rd ra => exact Laws.OperandsFit.mov rd ra
  | csrr rd csr => exact Laws.OperandsFit.csrr rd csr
  | csrw csr ra => exact Laws.OperandsFit.csrw csr ra
  | f2x rd => exact Laws.OperandsFit.f2x rd
  | x2f ra => exact Laws.OperandsFit.x2f ra
  | fclamp => exact Laws.OperandsFit.fclamp
  | sgn rd ra => exact Laws.OperandsFit.sgn rd ra
  | sqrt rd ra => exact Laws.OperandsFit.sqrt rd ra
  | band rd ra rb => exact Laws.OperandsFit.band rd ra rb
  | bor rd ra rb => exact Laws.OperandsFit.bor rd ra rb
  | bxor rd ra rb => exact Laws.OperandsFit.bxor rd ra rb
  | bnot rd ra => exact Laws.OperandsFit.bnot rd ra
  | shl rd ra rb => exact Laws.OperandsFit.shl rd ra rb
  | shr rd ra rb => exact Laws.OperandsFit.shr rd ra rb
  | cos rd ra => exact Laws.OperandsFit.cos rd ra
  | sin rd ra => exact Laws.OperandsFit.sin rd ra
  | atan2 rd ra rb => exact Laws.OperandsFit.atan2 rd ra rb
  | bset slot v => exact Laws.OperandsFit.bset slot v
  | lupd => exact Laws.OperandsFit.lupd
  | btn rd slot => exact Laws.OperandsFit.btn rd slot
  | btnp rd slot => exact Laws.OperandsFit.btnp rd slot
  | btnm rd => exact Laws.OperandsFit.btnm rd
  | btnpm rd => exact Laws.OperandsFit.btnpm rd
  | held rd slot => exact Laws.OperandsFit.held rd slot
  | spalw idx val => exact Laws.OperandsFit.spalw idx val
  | spalr rd idx => exact Laws.OperandsFit.spalr rd idx
  | palrst => exact Laws.OperandsFit.palrst
  | rtrue => exact Laws.OperandsFit.rtrue
  | rtext p => exact Laws.OperandsFit.rtext p

/-- A command is assembled from its own line: reading a field's number back gives the field. -/
theorem assemble_line (i : Instr) : Machine.assemble i.line = some i := by
  rw [Machine.assemble, if_pos (wellFormed_line i)]
  cases i <;> simp [Instr.line]

theorem wellFormed_of_assemble {l : Line} {i : Instr} (h : Machine.assemble l = some i) :
    l.wellFormed = true := by
  by_contra hwf
  rw [Machine.assemble, if_neg hwf] at h
  cases h

/-! ## Well-formed lines are written forms -/

/-- `num` writes every number below the limit of the kind. -/
def Writes {α : Type} (k : OperandKind) (num : α → Nat) : Prop := ∀ n < k.limit, ∃ a, num a = n

theorem writes_toNat {k : OperandKind} {w : Nat} (h : k.limit = 2 ^ w := by rfl) :
    Writes k (BitVec.toNat : BitVec w → Nat) :=
  fun n hn => ⟨BitVec.ofNat w n, BitVec.toNat_ofNat n w ▸ Nat.mod_eq_of_lt (h ▸ hn)⟩

theorem writes_flag : Writes .flag Bool.toNat
  | 0, _ => ⟨false, rfl⟩
  | 1, _ => ⟨true, rfl⟩
  | n + 2, h => absurd h (by simp [OperandKind.limit])

/-- Operands that fit are one that fits the first kind, and others that fit the rest. -/
theorem exists_operand_of_fit {k : OperandKind} {ks : List OperandKind} {ns : List Nat}
    {α : Type} {num : α → Nat} (hk : Writes k num) (h : operandsFit (k :: ks) ns = true) :
    ∃ a ms, ns = num a :: ms ∧ operandsFit ks ms = true := by
  match ns with
  | [] => cases h
  | n :: ms =>
    obtain ⟨hn, hms⟩ : n < k.limit ∧ operandsFit ks ms = true := by simpa [operandsFit] using h
    obtain ⟨a, rfl⟩ := hk n hn
    exact ⟨a, ms, rfl, hms⟩

theorem eq_nil_of_fit {ns : List Nat} (h : operandsFit [] ns = true) : ns = [] := by
  match ns with
  | [] => rfl
  | _ :: _ => cases h

section Lines
variable {o : Op} {ns : List Nat} {α β γ : Type} {k₁ k₂ k₃ : OperandKind}
  {f : α → Nat} {g : β → Nat} {h : γ → Nat}

theorem line_of_none (i : Instr) (hfit : operandsFit [] ns = true)
    (hline : i.line = ⟨o, []⟩ := by rfl) : ∃ i : Instr, i.line = ⟨o, ns⟩ := by
  obtain rfl := eq_nil_of_fit hfit
  exact ⟨i, hline⟩

theorem line_of_one (mk : α → Instr) (hf : Writes k₁ f) (hfit : operandsFit [k₁] ns = true)
    (hline : ∀ a, (mk a).line = ⟨o, [f a]⟩ := by intros; rfl) :
    ∃ i : Instr, i.line = ⟨o, ns⟩ := by
  obtain ⟨a, ms, rfl, hms⟩ := exists_operand_of_fit hf hfit
  obtain rfl := eq_nil_of_fit hms
  exact ⟨mk a, hline a⟩

theorem line_of_two (mk : α → β → Instr) (hf : Writes k₁ f) (hg : Writes k₂ g)
    (hfit : operandsFit [k₁, k₂] ns = true)
    (hline : ∀ a b, (mk a b).line = ⟨o, [f a, g b]⟩ := by intros; rfl) :
    ∃ i : Instr, i.line = ⟨o, ns⟩ := by
  obtain ⟨a, ms, rfl, hms⟩ := exists_operand_of_fit hf hfit
  obtain ⟨b, _, rfl, hend⟩ := exists_operand_of_fit hg hms
  obtain rfl := eq_nil_of_fit hend
  exact ⟨mk a b, hline a b⟩

theorem line_of_three (mk : α → β → γ → Instr) (hf : Writes k₁ f) (hg : Writes k₂ g)
    (hh : Writes k₃ h) (hfit : operandsFit [k₁, k₂, k₃] ns = true)
    (hline : ∀ a b c, (mk a b c).line = ⟨o, [f a, g b, h c]⟩ := by intros; rfl) :
    ∃ i : Instr, i.line = ⟨o, ns⟩ := by
  obtain ⟨a, _, rfl, hms⟩ := exists_operand_of_fit hf hfit
  obtain ⟨b, _, rfl, hls⟩ := exists_operand_of_fit hg hms
  obtain ⟨c, _, rfl, hend⟩ := exists_operand_of_fit hh hls
  obtain rfl := eq_nil_of_fit hend
  exact ⟨mk a b c, hline a b c⟩

end Lines

/-- A line that passes the check is the written form of a command, by the signature of its
mnemonic (30_encoding.md R64, R70). -/
theorem exists_line_of_wellFormed {l : Line} (h : l.wellFormed = true) :
    ∃ i : Instr, i.line = l := by
  obtain ⟨op, ns⟩ := l
  have reg : Writes .reg (BitVec.toNat : Reg → Nat) := writes_toNat
  have imm : Writes .imm16 (BitVec.toNat : BitVec 16 → Nat) := writes_toNat
  have csr : Writes .csr (BitVec.toNat : BitVec 16 → Nat) := writes_toNat
  have slot : Writes .slot (BitVec.toNat : Slot → Nat) := writes_toNat
  have idx : Writes .palIdx (BitVec.toNat : PalIdx → Nat) := writes_toNat
  have val : Writes .palVal (BitVec.toNat : ColIdx → Nat) := writes_toNat
  cases op with
  | nop => exact line_of_none .nop h
  | lih => exact line_of_two .lih reg imm h
  | lil => exact line_of_two .lil reg imm h
  | mov => exact line_of_two .mov reg reg h
  | csrr => exact line_of_two .csrr reg csr h
  | csrw => exact line_of_two .csrw csr reg h
  | f2x => exact line_of_one .f2x reg h
  | x2f => exact line_of_one .x2f reg h
  | fclamp => exact line_of_none .fclamp h
  | sgn => exact line_of_two .sgn reg reg h
  | sqrt => exact line_of_two .sqrt reg reg h
  | band => exact line_of_three .band reg reg reg h
  | bor => exact line_of_three .bor reg reg reg h
  | bxor => exact line_of_three .bxor reg reg reg h
  | bnot => exact line_of_two .bnot reg reg h
  | shl => exact line_of_three .shl reg reg reg h
  | shr => exact line_of_three .shr reg reg reg h
  | cos => exact line_of_two .cos reg reg h
  | sin => exact line_of_two .sin reg reg h
  | atan2 => exact line_of_three .atan2 reg reg reg h
  | bset => exact line_of_two .bset slot writes_flag h
  | lupd => exact line_of_none .lupd h
  | btn => exact line_of_two .btn reg slot h
  | btnp => exact line_of_two .btnp reg slot h
  | btnm => exact line_of_one .btnm reg h
  | btnpm => exact line_of_one .btnpm reg h
  | held => exact line_of_two .held reg slot h
  | spalw => exact line_of_two .spalw idx val h
  | spalr => exact line_of_two .spalr reg idx h
  | palrst => exact line_of_none .palrst h
  | rtrue => exact line_of_none .rtrue h
  | rtext => exact line_of_one .rtext writes_flag h

/-- Settles O3: the lines that pass the check are the commands' own (`exists_line_of_wellFormed`),
and each of these assembles to its command (`assemble_line`). -/
theorem assemblerAcceptsExactlyFittingLines : Obligations.AssemblerAcceptsExactlyFittingLines := by
  refine ⟨fun l => ⟨fun hwf => ?accepted, fun ⟨_, hi⟩ => wellFormed_of_assemble hi⟩,
    fun l i h => ?written, assemble_line⟩
  case accepted =>
    obtain ⟨i, rfl⟩ := exists_line_of_wellFormed hwf
    exact ⟨i, assemble_line i⟩
  case written =>
    obtain ⟨j, rfl⟩ := exists_line_of_wellFormed (wellFormed_of_assemble h)
    cases (assemble_line j).symm.trans h
    rfl

end Sys2Proof

/-! PROOFS. A presented word and the pseudo-instructions (30_encoding.md R60, R66, R68, R71). -/

namespace Sys2Proof.Machine

/-! ## One presented word -/

/-- No command reaches the port. -/
theorem exec_port {i : Instr} {s t : State} (h : exec i s = .next t) : t.port = s.port := by
  obtain ⟨-, -, -, -, -, hport, -⟩ := everyArrayHasItsWriters i s t h
  exact hport

/-- A word presented to the block is there first, and taking it gives the state back. -/
theorem step_present {w : Word} {i : Instr} (h : decode w = .ok i) (s : State) :
    step (present w s) = exec i s :=
  step_command (s := present w s) rfl h

theorem withFetchWord_toNat (s : State) (w : Word) : s.withFetchWord 32 w.toNat = present w s := by
  rw [State.withFetchWord, Nat.mod_eq_of_lt w.isLt, BitVec.ofNat_toNat, BitVec.setWidth_eq]

/-- Settles O7. -/
theorem stepExecutesPresentedCommand : Obligations.StepExecutesPresentedCommand := by
  refine ⟨fun s w i rest hp hd => ⟨step_command hp hd, fun t ht => ?port⟩, fun s i => ?presented⟩
  case port => exact exec_port ((step_command hp hd).symm.trans ht)
  case presented => rw [withFetchWord_toNat, step_present (decode_encode i)]

/-- A word that no row covers is reserved (R67). -/
theorem decode_error_of_not_covered {w : Word} (h : ∀ row ∈ opTable, row.covers w = false) :
    ∃ e, decode w = .error e := by
  cases hd : decode w with
  | error e => exact ⟨e, rfl⟩
  | ok i =>
    obtain ⟨row, hrow, -, hcov⟩ := covers_of_decode hd
    cases (h row hrow).symm.trans hcov

/-- `Illegal()` sets `UNIMP` and no other control register (R68). -/
theorem onlyCsr_illegal (s : State) : OnlyCsr .status 1 s (illegal s) := by
  refine ⟨rfl, fun d hd => ?_⟩
  cases d with
  | status => exact absurd rfl hd
  | flo | fhi | dout | ptrx | ptry | ptrb => rfl

/-- Settles O8: an uncovered word is reserved, and a reserved word performs `Illegal()`. -/
theorem reservedWordOnlySetsUnimp : Obligations.ReservedWordOnlySetsUnimp := by
  intro s w rest hp hrows
  obtain ⟨e, hd⟩ := decode_error_of_not_covered hrows
  exact ⟨_, step_reserved hp hd, fun _ => rfl, onlyCsr_illegal _, fun _ => rfl, fun _ => rfl,
    fun _ => rfl, ⟨fun _ => rfl, fun _ => rfl, fun _ => rfl⟩, rfl, rfl⟩

end Sys2Proof.Machine

/-! PROOFS. Frames of the writes of 10_state.md, and the pseudo-instructions made of them
(30_encoding.md R71). -/

namespace Sys2Proof.Machine

/-! ## What a write leaves -/

theorem sameOutsideRegs_setX (s : State) (r : Reg) (v : Word) : SameOutsideRegs s (s.setX r v) :=
  ⟨fun _ => rfl, fun _ => rfl, fun _ => rfl, ⟨fun _ => rfl, fun _ => rfl, fun _ => rfl⟩, rfl, rfl⟩

theorem sameOutsideRegs_writeCsr (c : Csr) (v : Word) (s : State) :
    SameOutsideRegs s (writeCsr c v s) := by
  cases c <;> exact ⟨fun _ => rfl, fun _ => rfl, fun _ => rfl,
    ⟨fun _ => rfl, fun _ => rfl, fun _ => rfl⟩, rfl, rfl⟩

theorem SameOutsideRegs.trans {s t u : State} (h₁ : SameOutsideRegs s t)
    (h₂ : SameOutsideRegs t u) : SameOutsideRegs s u := by
  obtain ⟨hraw, hheld, hspal, ⟨hvm, hprev, hpix⟩, hsink, hport⟩ := h₁
  obtain ⟨hraw', hheld', hspal', ⟨hvm', hprev', hpix'⟩, hsink', hport'⟩ := h₂
  exact ⟨fun i => (hraw' i).trans (hraw i), fun i => (hheld' i).trans (hheld i),
    fun i => (hspal' i).trans (hspal i),
    ⟨fun a => (hvm' a).trans (hvm a), fun a => (hprev' a).trans (hprev a),
      fun a => (hpix' a).trans (hpix a)⟩, hsink'.trans hsink, hport'.trans hport⟩

theorem getX_writeCsr (c : Csr) (v : Word) (s : State) (r : Reg) :
    (writeCsr c v s).getX r = s.getX r := by
  cases c <;> rfl

/-- Putting a value into a general register is all that happens. -/
theorem regEffect_setX (rd : Reg) (v : Word) (s : State) : RegEffect rd v s (s.setX rd v) :=
  ⟨⟨getX_setX_same s rd v, fun _ hr => getX_setX_other hr⟩, fun c => readCsr_setX c s rd v,
    sameOutsideRegs_setX s rd v⟩

/-- Writing a control register other than `STATUS` is all that happens. -/
theorem csrEffect_writeCsr {c : Csr} (hc : c ≠ .status) (v : Word) (s : State) :
    CsrEffect c v s (writeCsr c v s) := by
  refine ⟨getX_writeCsr c v s, ⟨?_, fun d hd => ?_⟩, sameOutsideRegs_writeCsr c v s⟩
  · rw [readCsr_writeCsr, if_pos rfl, if_neg hc]
  · rw [readCsr_writeCsr, if_neg hd]

/-- Writing `F` is all that happens (10_state.md R19). -/
theorem floatEffect_setFloat (b : BitVec 64) (s : State) : FloatEffect b s (s.setFloat b) := by
  refine ⟨fun _ => rfl, float_setFloat s b, toNat_highWord b, toNat_lowWord b,
    fun c hlo hhi => ?csrs, fun _ => rfl, fun _ => rfl, fun _ => rfl,
    ⟨fun _ => rfl, fun _ => rfl, fun _ => rfl⟩, rfl, rfl⟩
  cases c with
  | flo => exact absurd rfl hlo
  | fhi => exact absurd rfl hhi
  | status | dout | ptrx | ptry | ptrb => rfl

/-! ## Pseudo-instructions: the state each one leaves -/

/-- The second write of a register is the one that stays. -/
theorem setX_setX (s : State) (r : Reg) (v v' : Word) : (s.setX r v).setX r v' = s.setX r v' := by
  simp [State.setX]

theorem execAll_cons {i : Instr} {is : List Instr} {s t : State} (h : exec i s = .next t) :
    execAll (i :: is) s = execAll is t := by
  simp [execAll, h]

theorem execAll_li (rd : Reg) (v : Word) (s : State) :
    execAll (pseudoLi rd v) s = .next (s.setX rd v) := by
  rw [pseudoLi, execAll_cons (exec_lih _ _ _), execAll_cons (exec_lil _ _ _), getX_setX_same,
    highHalf_joinHalves, joinHalves_high_low, setX_setX]
  rfl

theorem execAll_out (ra : Reg) (s : State) :
    execAll (pseudoOut ra) s = .next (writeCsr .dout (s.getX ra) s) :=
  execAll_cons (exec_csrw_number .dout ra s)

theorem execAll_fld (ra rb : Reg) (s : State) :
    execAll (pseudoFld ra rb) s = .next (s.setFloat (joinWords (s.getX rb) (s.getX ra))) := by
  have hlo := exec_csrw_number .flo ra s
  have hhi := exec_csrw_number .fhi rb (writeCsr .flo (s.getX ra) s)
  rw [State.setFloat, highWord_joinWords, lowWord_joinWords]
  exact (execAll_cons hlo).trans (execAll_cons hhi)

theorem execAll_fst (rd re : Reg) (s : State) :
    execAll (pseudoFst rd re) s = .next ((s.setX rd s.flo).setX re s.fhi) :=
  (execAll_cons (exec_csrr_number rd .flo s)).trans
    (execAll_cons (exec_csrr_number re .fhi (s.setX rd s.flo)))

theorem execAll_setptr (ra rb rc : Reg) (s : State) :
    execAll (pseudoSetptr ra rb rc) s
      = .next (writeCsr .ptrb (s.getX rc) (writeCsr .ptry (s.getX rb)
          (writeCsr .ptrx (s.getX ra) s))) :=
  (execAll_cons (exec_csrw_number .ptrx ra s)).trans
    ((execAll_cons (exec_csrw_number .ptry rb _)).trans
      (execAll_cons (exec_csrw_number .ptrb rc _)))

/-- `PRESS` and `RELEASE` are `BSET` with either level. -/
theorem bset_effect (slot : Slot) (v : Bool) (s : State) :
    ∃ t, execAll [.bset slot v] s = .next t
      ∧ (∀ j, t.getRaw j = if j = slot then v else s.getRaw j)
      ∧ SameRegs s t ∧ SameCsrs s t ∧ SameHeld s t ∧ SameSpal s t ∧ SameMemory s t
      ∧ SameStreams s t :=
  ⟨s.setRaw slot v, execAll_cons (exec_bset slot v s), fun j => getRaw_setRaw s slot j v,
    fun _ => rfl, fun c => readCsr_congr c rfl, fun _ => rfl, fun _ => rfl,
    ⟨fun _ => rfl, fun _ => rfl, fun _ => rfl⟩, rfl, rfl⟩

/-- Settles O24: the state each pseudo-instruction leaves is one write after another. -/
theorem pseudoInstructionEffects : Obligations.PseudoInstructionEffects := by
  refine ⟨fun rd v s => ⟨_, execAll_li rd v s, regEffect_setX rd v s⟩,
    fun ra s => ⟨_, execAll_out ra s, csrEffect_writeCsr (by decide) _ s⟩,
    fun ra rb s => ⟨_, execAll_fld ra rb s, floatEffect_setFloat _ s, ?fhi, ?flo, ?float⟩,
    fun rd re s => ⟨_, execAll_fst rd re s, ?regs, fun c => ?csrs, ?frame⟩,
    fun ra rb rc s => ⟨_, execAll_setptr ra rb rc s, fun _ => rfl, fun c => ?pointers, ?frame'⟩,
    fun slot s => bset_effect slot true s, fun slot s => bset_effect slot false s⟩
  case fhi => rw [State.setFloat_fhi, highWord_joinWords]
  case flo => rw [State.setFloat_flo, lowWord_joinWords]
  case float => rw [float_setFloat, toNat_joinWords]
  case regs => intro q; rw [getX_setX, getX_setX]
  case csrs => rw [readCsr_setX, readCsr_setX]
  case frame => exact (sameOutsideRegs_setX s rd _).trans (sameOutsideRegs_setX _ re _)
  case pointers => cases c <;> rfl
  case frame' =>
    exact (sameOutsideRegs_writeCsr .ptrx _ s).trans
      ((sameOutsideRegs_writeCsr .ptry _ _).trans (sameOutsideRegs_writeCsr .ptrb _ _))

end Sys2Proof.Machine

/-! PROOFS. Data movement (40_data_movement.md R80 to R85): `NOP`, the two halves of a word, `MOV`, and
the control registers by number. -/

namespace Sys2Proof

/-- A word that its format rejects has a bit that must be zero (30_encoding.md R63). -/
theorem require_ok_or_error (w : Word) (ok : Bool) (i : Instr) :
    require w ok i = .ok i ∨ require w ok i = .error (.mustBeZero (opOf w)) := by
  cases ok with
  | true => exact .inl rfl
  | false => exact .inr rfl

end Sys2Proof

namespace Sys2Proof.Machine

/-! ## Values -/

/-- Two half words as a number. -/
theorem joinHalves_eq_ofNat (hi lo : BitVec 16) :
    joinHalves hi lo = BitVec.ofNat 32 (hi.toNat * 0x10000 + lo.toNat) := by
  rw [← toNat_joinHalves, BitVec.ofNat_toNat, BitVec.setWidth_eq]

/-- A packed 16-bit pattern is an integer with a zero fraction (42_fixed_scalar.md R102). -/
theorem fx_packBits (r : BitVec 16) : fx (packBits r) = r.toInt := by
  rw [fx, s32_packBits]
  push_cast
  exact mul_div_cancel_right₀ _ (by norm_num)

/-! ## Whole effects of control-register accesses (10_state.md R15, R16) -/

/-- A write of `STATUS` writes bit 0, and that is all that happens (R16). -/
theorem csrEffect_writeCsr_status (v : Word) (s : State) :
    CsrEffect .status (v &&& 1) s (writeCsr .status v s) := by
  refine ⟨getX_writeCsr .status v s, ⟨flagWord_getLsbD_zero v, fun d hd => ?_⟩,
    sameOutsideRegs_writeCsr .status v s⟩
  rw [readCsr_writeCsr, if_neg hd]

/-- Setting `UNIMP` is the effect R15 gives an unimplemented number. -/
theorem unimpEffect_setUnimp (s : State) : UnimpEffect s s.setUnimp :=
  ⟨onlyCsr_illegal s, fun _ => rfl, fun _ => rfl, fun _ => rfl,
    ⟨fun _ => rfl, fun _ => rfl, fun _ => rfl⟩, rfl, rfl⟩

/-- `UnimpEffect` does not look at general registers, so a write of one may go before. -/
theorem UnimpEffect.of_setX {r : Reg} {v : Word} {s t : State}
    (h : UnimpEffect (s.setX r v) t) : UnimpEffect s t := by
  obtain ⟨⟨hstatus, hcsrs⟩, houtside⟩ := h
  exact ⟨⟨hstatus, fun d hd => (hcsrs d hd).trans (readCsr_setX d s r v)⟩,
    (sameOutsideRegs_setX s r v).trans houtside⟩

/-! ## Statements -/

/-- Settles O18: the written value is `packBits imm`. -/
theorem lihLoadsTheHighHalf : Obligations.LihLoadsTheHighHalf := by
  intro rd imm s
  refine ⟨encodedAs_of_row (o := .lih) (by decide) rfl, _, exec_lih rd imm s, ?effect, ?value⟩
  case effect =>
    have hvalue : joinHalves imm 0 = BitVec.ofNat 32 (imm.toNat * 0x10000) := by
      simp [joinHalves_eq_ofNat]
    rw [hvalue]
    exact regEffect_setX rd _ s
  case value => rw [getX_setX_same, ← packBits, fx_packBits]

/-- Settles O19: the old high half as a number is the quotient by 2^16. -/
theorem lilReplacesTheLowHalf : Obligations.LilReplacesTheLowHalf := by
  intro rd imm s
  refine ⟨encodedAs_of_row (o := .lil) (by decide) rfl, _, exec_lil rd imm s, ?_⟩
  rw [joinHalves_eq_ofNat, toNat_highHalf]
  exact regEffect_setX rd _ s

/-- Settles O21: an implemented number is that of one of the seven registers, whose value goes to
`rd`; every other number is 7 or more. -/
theorem csrrReadsEveryNumber : Obligations.CsrrReadsEveryNumber := by
  intro rd csr s
  refine ⟨encodedAs_of_row (o := .csrr) (by decide) rfl, ?_⟩
  obtain ⟨c, rfl⟩ | hcsr := csr_number_or_unimplemented csr
  · refine ⟨_, exec_csrr_number rd c s, ?_⟩
    have heffect := regEffect_setX rd (readCsr c s) s
    cases c with
    | status | flo | fhi | dout | ptrx | ptry | ptrb => exact heffect
  · refine ⟨_, exec_csrr_unimplemented hcsr rd s, ?_⟩
    obtain ⟨k, hk⟩ := Nat.exists_eq_add_of_le' hcsr
    rw [hk]
    exact ⟨⟨getX_setX_same s rd 0, fun _ hr => getX_setX_other hr⟩,
      (unimpEffect_setUnimp (s.setX rd 0)).of_setX⟩

/-- Settles O22: of the seven registers `STATUS` alone keeps less than the whole word; every other
number is 7 or more. -/
theorem csrwWritesEveryNumber : Obligations.CsrwWritesEveryNumber := by
  intro csr ra s
  refine ⟨encodedAs_of_row (o := .csrw) (by decide) rfl, ?_⟩
  obtain ⟨c, rfl⟩ | hcsr := csr_number_or_unimplemented csr
  · refine ⟨_, exec_csrw_number c ra s, ?_⟩
    cases c with
    | status => exact csrEffect_writeCsr_status (s.getX ra) s
    | flo | fhi | dout | ptrx | ptry | ptrb => exact csrEffect_writeCsr (by decide) (s.getX ra) s
  · refine ⟨_, exec_csrw_unimplemented hcsr ra s, ?_⟩
    obtain ⟨k, hk⟩ := Nat.exists_eq_add_of_le' hcsr
    rw [hk]
    exact ⟨fun _ => rfl, unimpEffect_setUnimp s⟩

/-- Settles O17: a word with opcode 0x00 that decodes is `NOP`'s own, which is 0. -/
theorem nopChangesNothing : Obligations.NopChangesNothing := by
  refine ⟨fun s => ⟨encodedAs_of_row (o := .nop) (by decide) rfl, exec_nop s⟩, fun w hop hw => ?_⟩
  have harm : decode w = fmtZ w .nop := by rw [decode, hop]; rfl
  obtain hok | herr := require_ok_or_error w _ .nop
  · have hzero : (0 : Word) = w := encode_of_decode (harm.trans hok)
    exact absurd hzero.symm hw
  · exact harm.trans (hop ▸ herr)

/-- Settles O20. -/
theorem movCopiesARegister : Obligations.MovCopiesARegister := fun rd ra s =>
  ⟨encodedAs_of_row (o := .mov) (by decide) rfl, _, exec_mov rd ra s,
    regEffect_setX rd (s.getX ra) s⟩

end Sys2Proof.Machine

/-! PROOFS. The numbers of the conversions (00_scope.md R6, 41_fixed_conversion.md R87, R90 to R92):
`RN` and `roundScaled` are Mathlib's `round` up to sign, and both conversion functions are read off
the value of a float as sign, significand and exponent. -/

namespace Sys2Proof.Machine

/-! ## Rounding to nearest (00_scope.md R6, R91) -/

theorem RN_of_nonneg {r : ℚ} (h : 0 ≤ r) : RN r = round r := by
  rw [RN, if_pos h, round_eq]

theorem RN_of_neg {r : ℚ} (h : r < 0) : RN r = -round (-r) := by
  rw [RN, if_neg (not_le.mpr h), round_eq]

/-- `RN` goes by the magnitude, whatever the sign; a zero has both signs. -/
theorem RN_signed (sg : Bool) {r : ℚ} (h : 0 ≤ r) :
    RN ((if sg then -1 else 1) * r) = if sg then -round r else round r := by
  cases sg with
  | false => simpa using RN_of_nonneg h
  | true =>
    obtain rfl | hpos := h.eq_or_lt
    · simp [RN_of_nonneg]
    · simpa using RN_of_neg (neg_lt_zero.mpr hpos)

@[simp] theorem RN_intCast (n : Int) : RN n = n := by
  obtain h | h := le_or_gt 0 (n : ℚ)
  · rw [RN_of_nonneg h, round_intCast]
  · rw [RN_of_neg h, ← Int.cast_neg, round_intCast, neg_neg]

theorem abs_RN_sub_le (r : ℚ) : |(RN r : ℚ) - r| ≤ 1 / 2 := by
  obtain h | h := le_or_gt 0 r
  · rw [RN_of_nonneg h, abs_sub_comm]
    exact abs_sub_round r
  · rw [RN_of_neg h, Int.cast_neg, neg_sub_comm]
    exact abs_sub_round (-r)

/-- The division of R91: the quotient goes up when twice the remainder reaches the divisor. -/
theorem round_natCast_div (m : Nat) {d : Nat} (hd : 0 < d) :
    round ((m : ℚ) / d) = ((if d ≤ 2 * (m % d) then m / d + 1 else m / d : Nat) : Int) := by
  have hdq : (0 : ℚ) < d := by exact_mod_cast hd
  have hdiv : (m : ℚ) / d = (m / d : Nat) + (m % d : Nat) / d := by
    have hm : (d : ℚ) * (m / d : Nat) + (m % d : Nat) = m := by exact_mod_cast Nat.div_add_mod m d
    rw [← hm]
    field_simp
  have hlt : ((m % d : Nat) : ℚ) < d := by exact_mod_cast Nat.mod_lt m hd
  have hnonneg : (0 : ℚ) ≤ (m % d : Nat) := Nat.cast_nonneg _
  rw [hdiv, round_natCast_add]
  split_ifs with hup
  · have hup' : (d : ℚ) ≤ 2 * (m % d : Nat) := by exact_mod_cast hup
    have hone : round (((m % d : Nat) : ℚ) / d) = 1 := by
      rw [round_eq_iff, Set.mem_Ico, le_div_iff₀ hdq, div_lt_iff₀ hdq]
      constructor <;> push_cast <;> linarith
    rw [hone, Nat.cast_succ]
  · have hdown : (2 : ℚ) * (m % d : Nat) < d := by exact_mod_cast not_le.mp hup
    have hzero : round (((m % d : Nat) : ℚ) / d) = 0 := by
      rw [round_eq_zero_iff, Set.mem_Ico, le_div_iff₀ hdq, div_lt_iff₀ hdq]
      constructor <;> linarith
    rw [hzero, add_zero]

/-- Below `k = -64` a significand is far below one half (R97). -/
theorem round_significand_of_small {m : Nat} (hm : m < 2 ^ 53) {k : Int} (hk : k < -64) :
    round ((m : ℚ) * 2 ^ k) = 0 := by
  have hpow : (2 : ℚ) ^ k ≤ 2 ^ (-64 : Int) := zpow_le_zpow_right₀ (by norm_num) hk.le
  have hlt : (m : ℚ) * 2 ^ k < 1 / 2 :=
    calc (m : ℚ) * 2 ^ k ≤ 2 ^ 53 * 2 ^ (-64 : Int) := by
          gcongr
          exact_mod_cast hm.le
      _ < 1 / 2 := by norm_num
  have hpos : 0 ≤ (m : ℚ) * 2 ^ k := by positivity
  exact round_eq_zero_iff.mpr ⟨by linarith, hlt⟩

/-- The three ranges of the exponent compute one function, the rounded scaled significand (R91). -/
theorem roundScaled_eq_round {m : Nat} (hm : m < 2 ^ 53) (k : Int) :
    (roundScaled m k : Int) = round ((m : ℚ) * 2 ^ k) := by
  unfold roundScaled
  split_ifs with hk hsmall
  · obtain ⟨j, rfl⟩ := Int.eq_ofNat_of_zero_le hk
    rw [zpow_natCast, Int.toNat_natCast]
    exact_mod_cast (round_natCast (α := ℚ) (m * 2 ^ j)).symm
  · exact (round_significand_of_small hm hsmall).symm
  · obtain ⟨j, hj⟩ := Int.eq_ofNat_of_zero_le (show 0 ≤ -k by omega)
    obtain rfl : k = -(j : Int) := by omega
    have hscaled : (m : ℚ) * 2 ^ (-(j : Int)) = m / (2 ^ j : Nat) := by
      rw [zpow_neg, zpow_natCast, Nat.cast_pow, Nat.cast_ofNat, div_eq_mul_inv]
    rw [hscaled, round_natCast_div m (Nat.two_pow_pos j), neg_neg, Int.toNat_natCast]

/-! ## Fixed-point patterns (R87) -/

theorem wrap32_s32 (v : Word) : wrap32 (s32 v) = v := BitVec.ofInt_toInt

theorem s32_wrap32 {n : Int} (hlo : -2 ^ 31 ≤ n) (hhi : n ≤ 2 ^ 31 - 1) : s32 (wrap32 n) = n := by
  rw [s32, wrap32, BitVec.toInt_ofInt]
  exact Int.bmod_eq_of_le (by omega) (by omega)

theorem s32_eq_zero_iff {v : Word} : s32 v = 0 ↔ v = 0 :=
  BitVec.toInt_inj (y := 0)

theorem fx_mul_65536 (v : Word) : fx v * 65536 = s32 v := div_mul_cancel₀ _ (by norm_num)

/-- The top bit of a magnitude stands at one of the positions 0 to 31. -/
theorem log2_natAbs_s32_le (v : Word) : (s32 v).natAbs.log2 ≤ 31 := by
  have hlo := BitVec.le_toInt v
  have hhi := BitVec.toInt_lt (x := v)
  have hlt : (s32 v).natAbs < 2 ^ 32 := by unfold s32; omega
  obtain h0 | hne := eq_or_ne (s32 v).natAbs 0
  · rw [h0]; decide
  · exact Nat.le_of_lt_succ ((Nat.log2_lt hne).mpr hlt)

/-! ## Fields of a float (R90) -/

theorem f64Frac_lt (f : BitVec 64) : f64Frac f < 2 ^ 52 := (f.extractLsb' 0 52).isLt

theorem f64Significand_lt (f : BitVec 64) : f64Significand f < 2 ^ 53 := by
  have := f64Frac_lt f
  unfold f64Significand
  split_ifs <;> omega

/-- The two classes of R90 as the one product of R91. -/
theorem f64Value_eq (f : BitVec 64) :
    f64Value f = (if f64Sign f then -1 else 1) * (f64Significand f * 2 ^ f64Exponent f) := by
  unfold f64Value f64Significand f64Exponent
  by_cases hexp : f64Exp f = 0
  · simp only [if_pos hexp]
  · simp only [if_neg hexp, Nat.cast_add, Nat.cast_pow, Nat.cast_ofNat]

theorem f64Sign_f64Pack (sg : Bool) (e m : Nat) : f64Sign (f64Pack sg e m) = sg := by
  simp [f64Sign, f64Pack]

theorem f64Exp_f64Pack (sg : Bool) {e : Nat} (he : e < 2 ^ 11) (m : Nat) :
    f64Exp (f64Pack sg e m) = e := by
  have hfield : (f64Pack sg e m).extractLsb' 52 11 = BitVec.ofNat 11 e := by
    apply BitVec.eq_of_getLsbD_eq
    intro i hi
    have hsign : (52 + i < 63) := by omega
    have hword : 52 + i < 64 := by omega
    have hfrac : ¬ 52 + i < 52 := by omega
    simp [f64Pack, hi, hsign, hword, hfrac]
  rw [f64Exp, hfield, BitVec.toNat_ofNat, Nat.mod_eq_of_lt he]

theorem f64Frac_f64Pack (sg : Bool) (e : Nat) {m : Nat} (hm : m < 2 ^ 52) :
    f64Frac (f64Pack sg e m) = m := by
  have hfield : (f64Pack sg e m).extractLsb' 0 52 = BitVec.ofNat 52 m := by
    apply BitVec.eq_of_getLsbD_eq
    intro i hi
    have hsign : i < 63 := by omega
    have hword : i < 64 := by omega
    simp [f64Pack, hi, hsign, hword]
  rw [f64Frac, hfield, BitVec.toNat_ofNat, Nat.mod_eq_of_lt hm]

/-! ## `to_fixed` (R91) -/

theorem toFixed_of_not_finite {f : BitVec 64} (h : f64Exp f = 2047) :
    toFixed f = if f64Frac f = 0 ∧ f64Sign f = true then 0x80000000 else 0x7FFFFFFF := by
  rw [toFixed, if_pos h]
  by_cases hinf : f64Frac f = 0
  · simp only [hinf, ne_eq, not_true_eq_false, if_false, true_and]
  · simp only [hinf, ne_eq, not_false_eq_true, if_true, false_and, if_false]

/-- A finite float is rounded once, from its exact value, and wraps. -/
theorem toFixed_of_finite {f : BitVec 64} (h : f64Finite f) :
    toFixed f = wrap32 (RN (f64Value f * 65536)) := by
  have hscale : f64Value f * 65536
      = (if f64Sign f then -1 else 1) * (f64Significand f * 2 ^ (f64Exponent f + 16)) := by
    rw [f64Value_eq, zpow_add₀ two_ne_zero]
    norm_num [mul_assoc]
  rw [hscale, RN_signed _ (by positivity), ← roundScaled_eq_round (f64Significand_lt f), toFixed,
    if_neg h]

/-! ## `from_fixed` (R92) -/

theorem fromFixed_zero : fromFixed 0 = 0 := rfl

theorem fromFixed_of_ne_zero {v : Word} (hv : v ≠ 0) :
    fromFixed v = f64Pack (decide (s32 v < 0)) (1007 + (s32 v).natAbs.log2)
      ((s32 v).natAbs * 2 ^ (52 - (s32 v).natAbs.log2) % 2 ^ 52) := by
  rw [fromFixed]
  exact if_neg (mt s32_eq_zero_iff.mp hv)

theorem f64Sign_fromFixed {v : Word} (hv : v ≠ 0) :
    f64Sign (fromFixed v) = decide (s32 v < 0) := by
  rw [fromFixed_of_ne_zero hv, f64Sign_f64Pack]

theorem f64Exp_fromFixed {v : Word} (hv : v ≠ 0) :
    f64Exp (fromFixed v) = 1007 + (s32 v).natAbs.log2 := by
  have := log2_natAbs_s32_le v
  rw [fromFixed_of_ne_zero hv, f64Exp_f64Pack _ (by omega)]

theorem f64Frac_fromFixed {v : Word} (hv : v ≠ 0) :
    f64Frac (fromFixed v)
      = (s32 v).natAbs * 2 ^ (52 - (s32 v).natAbs.log2) % 2 ^ 52 := by
  rw [fromFixed_of_ne_zero hv, f64Frac_f64Pack _ _ (Nat.mod_lt _ (by norm_num))]

theorem f64Finite_fromFixed (v : Word) : f64Finite (fromFixed v) := by
  obtain rfl | hv := eq_or_ne v 0
  · unfold f64Finite; decide
  · have := log2_natAbs_s32_le v
    rw [f64Finite, f64Exp_fromFixed hv]
    omega

/-- A number shifted until its top bit is bit 52 is that bit and a fraction. -/
theorem two_pow_52_add_mod {a : Nat} (ha : a ≠ 0) (hlog : a.log2 ≤ 52) :
    2 ^ 52 + a * 2 ^ (52 - a.log2) % 2 ^ 52 = a * 2 ^ (52 - a.log2) := by
  have hlo : 2 ^ 52 ≤ a * 2 ^ (52 - a.log2) :=
    calc 2 ^ 52 = 2 ^ a.log2 * 2 ^ (52 - a.log2) := by rw [← pow_add, Nat.add_sub_cancel' hlog]
      _ ≤ a * 2 ^ (52 - a.log2) := Nat.mul_le_mul_right _ (Nat.log2_self_le ha)
  have hhi : a * 2 ^ (52 - a.log2) < 2 ^ 53 :=
    calc a * 2 ^ (52 - a.log2) < 2 ^ (a.log2 + 1) * 2 ^ (52 - a.log2) :=
          Nat.mul_lt_mul_of_pos_right Nat.lt_log2_self (Nat.two_pow_pos _)
      _ = 2 ^ 53 := by rw [← pow_add]; congr 1; omega
  omega

theorem f64Significand_fromFixed {v : Word} (hv : v ≠ 0) :
    f64Significand (fromFixed v) = (s32 v).natAbs * 2 ^ (52 - (s32 v).natAbs.log2) := by
  have hlog := log2_natAbs_s32_le v
  have hne : (s32 v).natAbs ≠ 0 := Int.natAbs_ne_zero.mpr (mt s32_eq_zero_iff.mp hv)
  rw [f64Significand, f64Exp_fromFixed hv, if_neg (by omega), f64Frac_fromFixed hv,
    two_pow_52_add_mod hne (by omega)]

/-- The 16 fraction bits of the pattern, and the shift that `two_pow_52_add_mod` undoes. -/
theorem f64Exponent_fromFixed {v : Word} (hv : v ≠ 0) :
    f64Exponent (fromFixed v) = -16 - (52 - (s32 v).natAbs.log2 : Nat) := by
  have hlog := log2_natAbs_s32_le v
  rw [f64Exponent, f64Exp_fromFixed hv, if_neg (by omega)]
  omega

/-- `X2F` loses nothing: the float of a pattern has the pattern's value (R92). -/
theorem f64Value_fromFixed (v : Word) : f64Value (fromFixed v) = fx v := by
  obtain rfl | hv := eq_or_ne v 0
  · have hzero : f64Significand 0 = 0 := by decide
    rw [fromFixed_zero, f64Value_eq, hzero]
    simp [fx, s32]
  have hmagnitude : (f64Significand (fromFixed v) * 2 ^ f64Exponent (fromFixed v) : ℚ)
      = (s32 v).natAbs / 65536 := by
    rw [f64Significand_fromFixed hv, f64Exponent_fromFixed hv, zpow_sub₀ two_ne_zero, zpow_natCast]
    push_cast
    field_simp
    norm_num
  rw [f64Value_eq, f64Sign_fromFixed hv, hmagnitude, fx, Nat.cast_natAbs]
  obtain hneg | hnonneg := lt_or_ge (s32 v) 0
  · simp [hneg, abs_of_neg hneg, neg_div]
  · simp [hnonneg.not_gt, abs_of_nonneg hnonneg]

/-! ## The two functions together (R96) -/

/-- Fixed to float to fixed is the identity on patterns. -/
@[simp] theorem toFixed_fromFixed (v : Word) : toFixed (fromFixed v) = v := by
  rw [toFixed_of_finite (f64Finite_fromFixed v), f64Value_fromFixed, fx_mul_65536, RN_intCast,
    wrap32_s32]

/-- The clamp of a float that rounds into range has the rounded value. -/
theorem f64Value_clamp {f : BitVec 64} (h : f64Finite f) (hlo : -2 ^ 31 ≤ RN (f64Value f * 65536))
    (hhi : RN (f64Value f * 65536) ≤ 2 ^ 31 - 1) :
    f64Value (fromFixed (toFixed f)) = RN (f64Value f * 65536) / 65536 := by
  rw [f64Value_fromFixed, toFixed_of_finite h, fx, s32_wrap32 hlo hhi]

end Sys2Proof.Machine

/-! PROOFS. The conversion commands (41_fixed_conversion.md R93 to R96): each writes one place, and
what it writes is known from the conversion functions. -/

namespace Sys2Proof.Machine

/-- The second write of `F` is the one that stays. -/
@[simp] theorem setFloat_setFloat (s : State) (b b' : BitVec 64) :
    (s.setFloat b).setFloat b' = s.setFloat b' := rfl

/-- A state whose `F` has been clamped is one that `FCLAMP` keeps (R95, R96). -/
theorem exec_fclamp_setFloat_fromFixed (s : State) (v : Word) :
    exec .fclamp (s.setFloat (fromFixed v)) = .next (s.setFloat (fromFixed v)) := by
  rw [exec_fclamp, float_setFloat, toFixed_fromFixed, setFloat_setFloat]

/-- Settles O25. -/
theorem f2xRoundsWrapsAndSaturates : Obligations.F2xRoundsWrapsAndSaturates := by
  intro rd s
  refine ⟨encodedAs_of_row (o := .f2x) (by decide) rfl, _, exec_f2x rd s, ?effect,
    toNat_joinWords s.fhi s.flo⟩
  case effect =>
    split_ifs with hexp hinf
    · rw [toFixed_of_not_finite hexp, if_pos hinf]
      exact regEffect_setX rd _ s
    · rw [toFixed_of_not_finite hexp, if_neg hinf]
      exact regEffect_setX rd _ s
    · rw [toFixed_of_finite hexp]
      exact regEffect_setX rd _ s

/-- Settles O26: `F` is the float of `x[ra]`, whose value is that of the pattern and whose fields are
read off its packed form. -/
theorem x2fIsExact : Obligations.X2fIsExact := by
  intro ra s
  refine ⟨encodedAs_of_row (o := .x2f) (by decide) rfl, _, exec_x2f ra s, ?_⟩
  rw [float_setFloat]
  refine ⟨floatEffect_setFloat _ s, f64Value_fromFixed _, fun hzero => ?zero, fun hne => ?fields⟩
  case zero => rw [hzero, fromFixed_zero]
  case fields =>
    have hlog := log2_natAbs_s32_le (s.getX ra)
    rw [f64Exp_fromFixed hne, f64Sign_fromFixed hne, decide_eq_true_iff]
    exact ⟨by omega, by omega, Iff.rfl, rfl, f64Frac_fromFixed hne⟩

/-- Settles O27. -/
theorem fclampIsF2xThenX2f : Obligations.FclampIsF2xThenX2f := by
  intro rd s
  refine ⟨encodedAs_of_row (o := .fclamp) (by decide) rfl, _, _, _, exec_fclamp s, exec_f2x rd s,
    exec_x2f rd _, ?effect, exec_fclamp_setFloat_fromFixed s _⟩
  case effect =>
    rw [float_setFloat, getX_setX_same]
    exact floatEffect_setFloat _ s

/-- Settles O28, the second and fourth clause from the value of the clamp (`f64Value_clamp`). -/
theorem conversionProperties : Obligations.ConversionProperties := by
  refine ⟨fun ra rd s => ⟨_, _, exec_x2f ra s, exec_f2x rd _, ?roundTrip⟩,
    fun s hfin ⟨n, hn, hlo, hhi⟩ => ⟨_, exec_fclamp s, ?keepsValue⟩,
    fun s => ⟨_, exec_fclamp s, exec_fclamp_setFloat_fromFixed s _⟩,
    fun s hfin hlo hhi => ⟨_, exec_fclamp s, ?finite, ?nearest⟩⟩
  case roundTrip => rw [getX_setX_same, float_setFloat, toFixed_fromFixed]
  case keepsValue =>
    have hRN : RN (f64Value s.float * 65536) = n := by rw [hn, RN_intCast]
    rw [float_setFloat, f64Value_clamp hfin (hRN ▸ hlo) (hRN ▸ hhi), hRN, ← hn,
      mul_div_cancel_right₀ _ (by norm_num)]
  case finite =>
    rw [float_setFloat]
    exact f64Finite_fromFixed _
  case nearest =>
    rw [float_setFloat, f64Value_clamp hfin hlo hhi]
    calc |(RN (f64Value s.float * 65536) : ℚ) / 65536 - f64Value s.float| * 65536
        = |((RN (f64Value s.float * 65536) : ℚ) / 65536 - f64Value s.float) * 65536| := by
          rw [abs_mul, abs_of_pos (show (0 : ℚ) < 65536 by norm_num)]
      _ = |(RN (f64Value s.float * 65536) : ℚ) - f64Value s.float * 65536| := by
          rw [sub_mul, div_mul_cancel₀ _ (by norm_num)]
      _ ≤ 1 / 2 := abs_RN_sub_le _

end Sys2Proof.Machine

/-! PROOFS. The numbers of the scalar commands (42_fixed_scalar.md R101, R102, R104, R109): the packed
form of an integer, truncation as integer division, the root rounded to nearest, and the shift as the
floor of a product with a power of two. -/

namespace Sys2Proof.Machine

/-! ## Packed results (R102) -/

theorem packBits_eq_ofNat (r : BitVec 16) : packBits r = BitVec.ofNat 32 (r.toNat * 0x10000) := by
  simp [packBits, joinHalves_eq_ofNat]

/-- The reduction to 16 bits cannot be seen in a 16.16 destination (R102). -/
theorem packBits_wrap16 (n : Int) : packBits (wrap16 n) = wrap32 (n * 0x10000) := by
  apply BitVec.eq_of_toNat_eq
  rw [packBits_eq_ofNat, wrap16, wrap32, BitVec.toNat_ofNat, BitVec.toNat_ofInt, BitVec.toNat_ofInt]
  omega

/-! ## Truncation (R101) -/

/-- A word as a number is its high half, signed, and its low half as a fraction. -/
theorem s32_eq_halves (v : Word) : s32 v = (highHalf v).toInt * 65536 + (lowHalf v).toNat := by
  have hv := v.isLt
  have hhigh := toNat_highHalf v
  rw [s32, BitVec.toInt_eq_toNat_cond, BitVec.toInt_eq_toNat_cond, toNat_lowHalf, hhigh]
  split_ifs <;> omega

theorem tr16_of_nonneg {v : Word} (h : 0 ≤ s32 v) : tr16 v = s32 v / 65536 :=
  Int.tdiv_eq_ediv_of_nonneg h

theorem tr16_of_neg {v : Word} (h : s32 v < 0) : tr16 v = -(-s32 v / 65536) := by
  rw [tr16, ← Int.tdiv_eq_ediv_of_nonneg (by omega), Int.neg_tdiv, neg_neg]

theorem tr16_bounds (v : Word) : -32768 ≤ tr16 v ∧ tr16 v ≤ 32767 := by
  have hlo : -2 ^ 31 ≤ s32 v := BitVec.le_toInt v
  have hhi : s32 v < 2 ^ 31 := BitVec.toInt_lt
  obtain h | h := le_or_gt 0 (s32 v)
  · rw [tr16_of_nonneg h]; omega
  · rw [tr16_of_neg h]; omega

/-- Dropping the fraction rounds a negative value down; truncation gives one more unless the fraction
was zero. -/
theorem tr16_eq_high (v : Word) :
    tr16 v = if 0 ≤ s32 v ∨ lowHalf v = 0 then (highHalf v).toInt else (highHalf v).toInt + 1 := by
  have hv := s32_eq_halves v
  have hlow := (lowHalf v).isLt
  obtain h | h := le_or_gt 0 (s32 v)
  · rw [tr16_of_nonneg h, if_pos (.inl h)]; omega
  · rw [tr16_of_neg h]
    by_cases hfrac : lowHalf v = 0
    · have hzero : (lowHalf v).toNat = 0 := congrArg BitVec.toNat hfrac
      rw [if_pos (.inr hfrac)]; omega
    · have hpos : 0 < (lowHalf v).toNat :=
        Nat.pos_of_ne_zero fun hzero => hfrac (BitVec.eq_of_toNat_eq hzero)
      rw [if_neg (not_or_intro (not_le.mpr h) hfrac)]; omega

theorem floor_div_65536 (n : Int) : ⌊(n : ℚ) / 65536⌋ = n / 65536 :=
  mod_cast Rat.floor_intCast_div_natCast n 65536

theorem tr16_eq_floor (v : Word) : tr16 v = if 0 ≤ fx v then ⌊fx v⌋ else -⌊-fx v⌋ := by
  have hsign : 0 ≤ fx v ↔ 0 ≤ s32 v := by
    rw [fx, le_div_iff₀ (by norm_num), zero_mul, Int.cast_nonneg_iff]
  split_ifs with h <;> rw [hsign] at h
  · rw [tr16_of_nonneg h, fx, floor_div_65536]
  · rw [tr16_of_neg (not_le.mp h), fx, ← neg_div, ← Int.cast_neg, floor_div_65536]

/-! ## Complement (R108) -/

theorem not_wrap16 (n : Int) : ~~~ wrap16 n = wrap16 (-n - 1) := by
  rw [BitVec.not_eq_neg_add, wrap16, wrap16, ← BitVec.ofInt_neg, BitVec.sub_eq_add_neg,
    sub_eq_add_neg, BitVec.ofInt_add]
  rfl

/-! ## Square root (R104) -/

/-- The root of a radicand as R104 rounds it: up when the remainder exceeds the floor of the root. -/
def roundedRoot (n : Nat) : Nat :=
  if isqrt n < n - isqrt n * isqrt n then isqrt n + 1 else isqrt n

theorem sqrtFixed_of_nonpos {v : Word} (h : s32 v ≤ 0) : sqrtFixed v = 0 := if_pos h

theorem sqrtFixed_of_pos {v : Word} (h : 0 < s32 v) :
    sqrtFixed v = BitVec.ofNat 32 (roundedRoot ((s32 v).toNat * 65536)) := if_neg (by omega)

/-- The rounded root `r` is the one with `r * r - r < n ≤ r * r + r`. -/
theorem roundedRoot_spec {n : Nat} (hpos : 0 < n) (hn : n < 2 ^ 48) :
    roundedRoot n * roundedRoot n < n + roundedRoot n
      ∧ n ≤ roundedRoot n * roundedRoot n + roundedRoot n := by
  obtain ⟨hle, hlt⟩ := isqrt_spec hn
  unfold roundedRoot
  generalize isqrt n = r at hle hlt ⊢
  have hsucc : (r + 1) * (r + 1) = r * r + 2 * r + 1 := by ring
  split_ifs with hup
  · omega
  · have hr : 0 < r := Nat.pos_of_ne_zero (by rintro rfl; omega)
    omega

/-- Within half a unit of the real root, squared and cleared of fractions. -/
theorem roundedRoot_nearest {n : Nat} (hpos : 0 < n) (hn : n < 2 ^ 48) :
    (2 * (roundedRoot n : Int) - 1) ^ 2 < 4 * n
      ∧ 4 * (n : Int) < (2 * (roundedRoot n : Int) + 1) ^ 2 := by
  obtain ⟨hlo, hhi⟩ := roundedRoot_spec hpos hn
  zify at hlo hhi
  constructor <;> linarith

/-- The root of the largest value bounds all roots. -/
theorem roundedRoot_le {n : Nat} (hpos : 0 < n) (hn : n ≤ (2 ^ 31 - 1) * 65536) :
    roundedRoot n ≤ 11863283 := by
  obtain ⟨hlo, -⟩ := roundedRoot_spec hpos (by omega)
  by_contra! hgt
  have hsquare := Nat.mul_le_mul_right (roundedRoot n) hgt
  omega

theorem roundedRoot_pos {n : Nat} (hpos : 0 < n) (hn : n < 2 ^ 48) : 0 < roundedRoot n := by
  obtain ⟨-, hhi⟩ := roundedRoot_spec hpos hn
  exact Nat.pos_of_ne_zero fun hzero => by rw [hzero] at hhi; omega

/-! ## Shift (R109) -/

theorem floor_mul_two_zpow_natCast (a : Int) (k : Nat) :
    ⌊(a : ℚ) * 2 ^ (k : Int)⌋ = a * 2 ^ k := by
  rw [zpow_natCast]
  exact_mod_cast Int.floor_intCast (R := ℚ) (a * 2 ^ k)

theorem floor_mul_two_zpow_neg (a : Int) (k : Nat) :
    ⌊(a : ℚ) * 2 ^ (-(k : Int))⌋ = a / 2 ^ k := by
  rw [zpow_neg, zpow_natCast, ← div_eq_mul_inv]
  exact_mod_cast Rat.floor_intCast_div_natCast a (2 ^ k)

/-- A left shift by 16 or more leaves nothing in 16 bits. -/
theorem wrap16_mul_two_pow (a : Int) {k : Nat} (hk : 16 ≤ k) : wrap16 (a * 2 ^ k) = 0 := by
  have hdvd : ((2 ^ 16 : Nat) : Int) ∣ a * 2 ^ k := (pow_dvd_pow 2 hk).mul_left a
  apply BitVec.eq_of_toNat_eq
  rw [wrap16, BitVec.toNat_ofInt, Int.emod_eq_zero_of_dvd hdvd]
  rfl

/-- A right shift by 16 or more leaves only the sign. -/
theorem ediv_two_pow_of_int16 {a : Int} (hlo : -32768 ≤ a) (hhi : a ≤ 32767) {k : Nat}
    (hk : 16 ≤ k) : a / 2 ^ k = if 0 ≤ a then 0 else -1 := by
  have hpow : (2 : Int) ^ 16 ≤ 2 ^ k := pow_le_pow_right₀ (by norm_num) hk
  split_ifs with h
  · exact Int.ediv_eq_zero_of_lt h (by omega)
  · exact Int.ediv_eq_neg_one_of_neg_of_le (by omega) (by omega)

/-- The four rows of the case table of R109 compute one function. -/
theorem sh16_eq_floor {a : Int} (hlo : -32768 ≤ a) (hhi : a ≤ 32767) (n : Int) :
    sh16 a n = wrap16 ⌊(a : ℚ) * 2 ^ n⌋ := by
  obtain hn | hn := le_or_gt 0 n
  · obtain ⟨k, rfl⟩ := Int.eq_ofNat_of_zero_le hn
    rw [floor_mul_two_zpow_natCast, sh16]
    split_ifs with hbig
    · exact (wrap16_mul_two_pow a (by omega)).symm
    · rw [Int.toNat_natCast]
  · obtain ⟨k, hk⟩ := Int.eq_ofNat_of_zero_le (show 0 ≤ -n by omega)
    obtain rfl : n = -(k : Int) := by omega
    rw [floor_mul_two_zpow_neg, sh16, if_neg (by omega), if_neg (by omega)]
    split_ifs with hsmall hsign
    · rw [neg_neg, Int.toNat_natCast, Int.fdiv_eq_ediv_of_nonneg _ (by positivity)]
    · rw [ediv_two_pow_of_int16 hlo hhi (by omega), if_pos hsign]
      rfl
    · rw [ediv_two_pow_of_int16 hlo hhi (by omega), if_neg hsign]
      rfl

end Sys2Proof.Machine

/-! PROOFS. The scalar commands (42_fixed_scalar.md R103 to R111): each is its word, and puts one value
into `rd`. -/

namespace Sys2Proof.Machine

/-- The common shape of the commands of this family: the row of the mnemonic gives the word, and a
command that puts `v` into `rd` has no other effect. -/
theorem encodedAs_and_regEffect {i : Instr} {o : Op} {p m : Word} {s : State} {rd : Reg} {v v' : Word}
    (hrow : OpRow.mk o p m ∈ opTable) (ho : i.line.op = o) (hexec : exec i s = .next (s.setX rd v))
    (hv : v = v') : EncodedAs i p m ∧ ∃ t, exec i s = .next t ∧ RegEffect rd v' s t :=
  ⟨encodedAs_of_row hrow ho, _, hexec, hv ▸ regEffect_setX rd v s⟩

/-- Settles O30: the clauses are those of the rounded root of `n * 65536`. -/
theorem sqrtIsTheNearestRoot : Obligations.SqrtIsTheNearestRoot := by
  intro rd ra s
  refine ⟨encodedAs_of_row (o := .sqrt) (by decide) rfl, _, exec_sqrt rd ra s, ?_⟩
  rw [getX_setX_same]
  refine ⟨regEffect_setX rd _ s, fun hnonpos => sqrtFixed_of_nonpos hnonpos, fun hpos => ?root⟩
  case root =>
    have hlt := BitVec.toInt_lt (x := s.getX ra)
    have hN : 0 < (s32 (s.getX ra)).toNat * 65536 := by unfold s32; omega
    have hle : (s32 (s.getX ra)).toNat * 65536 ≤ (2 ^ 31 - 1) * 65536 := by unfold s32; omega
    have hroot := roundedRoot_le hN hle
    have hrootPos := roundedRoot_pos hN (by omega)
    obtain ⟨hbelow, habove⟩ := roundedRoot_nearest hN (by omega)
    have hcast : (((s32 (s.getX ra)).toNat * 65536 : Nat) : Int) = (s.getX ra).toInt * 65536 := by
      unfold s32; omega
    rw [sqrtFixed_of_pos hpos, BitVec.toNat_ofNat, Nat.mod_eq_of_lt (by omega), ← hcast]
    exact ⟨hbelow, habove, by omega, by omega⟩

/-- Settles O31. -/
theorem truncationCaseTable : Obligations.TruncationCaseTable := fun v =>
  ⟨tr16_eq_high v, mod_cast congrArg (Int.cast : Int → ℚ) (tr16_eq_floor v), tr16_bounds v⟩

/-- Settles O33. -/
theorem bnotIsMinusOneMinus : Obligations.BnotIsMinusOneMinus := fun rd ra s =>
  encodedAs_and_regEffect (o := .bnot) (by decide) rfl (exec_bnot rd ra s)
    (by rw [bits16, not_wrap16, packBits_wrap16, wrap32])

/-- Settles O34. -/
theorem shiftFunctionIsFloorOfProduct : Obligations.ShiftFunctionIsFloorOfProduct :=
  fun _ n hlo hhi => sh16_eq_floor hlo hhi n

/-- A packed shift of a truncated operand, for either direction of the count. -/
theorem packBits_sh16_tr16 (v : Word) (n : Int) :
    packBits (sh16 (tr16 v) n) = BitVec.ofInt 32 (⌊(tr16 v : ℚ) * (2 : ℚ) ^ n⌋ * 0x10000) := by
  obtain ⟨hlo, hhi⟩ := tr16_bounds v
  rw [sh16_eq_floor hlo hhi, packBits_wrap16, wrap32]

/-- Settles O35. -/
theorem shiftResults : Obligations.ShiftResults := fun rd ra rb s =>
  ⟨encodedAs_and_regEffect (o := .shl) (by decide) rfl (exec_shl rd ra rb s)
      (packBits_sh16_tr16 _ _),
    encodedAs_and_regEffect (o := .shr) (by decide) rfl (exec_shr rd ra rb s)
      (packBits_sh16_tr16 _ _)⟩

/-- Settles O29. -/
theorem sgnMapsZeroToMinusOne : Obligations.SgnMapsZeroToMinusOne := fun rd ra s =>
  encodedAs_and_regEffect (o := .sgn) (by decide) rfl (exec_sgn rd ra s) rfl

/-- Settles O32. -/
theorem bitwiseResults : Obligations.BitwiseResults := fun rd ra rb s =>
  ⟨encodedAs_and_regEffect (o := .band) (by decide) rfl (exec_band rd ra rb s)
      (packBits_eq_ofNat _),
    encodedAs_and_regEffect (o := .bor) (by decide) rfl (exec_bor rd ra rb s)
      (packBits_eq_ofNat _),
    encodedAs_and_regEffect (o := .bxor) (by decide) rfl (exec_bxor rd ra rb s)
      (packBits_eq_ofNat _)⟩

end Sys2Proof.Machine

/-! PROOFS. The wave (43_trig.md R122 to R124, R127): it is odd and changes sign after half a turn, and
all identities of `COS` and `SIN` are these two. -/

namespace Sys2Proof.Machine

/-! ## The wave by quarters (R122) -/

theorem qsin_zero : qsin 0 = 0 := by decide +kernel

theorem sinq_of_le_16384 {a : BitVec 16} (h : a.toNat ≤ 16384) : sinq a = qsin a.toNat := if_pos h

theorem sinq_of_le_32768 {a : BitVec 16} (hlo : 16384 < a.toNat) (hhi : a.toNat ≤ 32768) :
    sinq a = qsin (32768 - a.toNat) := by
  rw [sinq, if_neg (by omega), if_pos hhi]

theorem sinq_of_le_49152 {a : BitVec 16} (hlo : 32768 < a.toNat) (hhi : a.toNat ≤ 49152) :
    sinq a = -(qsin (a.toNat - 32768) : Int) := by
  rw [sinq, if_neg (by omega), if_neg (by omega), if_pos hhi]

theorem sinq_of_gt_49152 {a : BitVec 16} (h : 49152 < a.toNat) :
    sinq a = -(qsin (65536 - a.toNat) : Int) := by
  rw [sinq, if_neg (by omega), if_neg (by omega), if_neg (by omega)]

/-- Half a turn on, an angle in the first half of the wave meets the negated value. -/
theorem sinq_half_turn_of_lt {a b : BitVec 16} (h : a.toNat < 32768)
    (hb : b.toNat = a.toNat + 32768) : sinq b = -sinq a := by
  obtain hle | hgt := le_or_gt a.toNat 16384
  · obtain hzero | hpos := Nat.eq_zero_or_pos a.toNat
    · rw [sinq_of_le_16384 hle, sinq_of_le_32768 (by omega) (by omega), hb, hzero, qsin_zero]
      rfl
    · rw [sinq_of_le_16384 hle, sinq_of_le_49152 (by omega) (by omega), hb, Nat.add_sub_cancel]
  · rw [sinq_of_le_32768 hgt (by omega), sinq_of_gt_49152 (by omega), hb,
      show 65536 - (a.toNat + 32768) = 32768 - a.toNat by omega]

theorem sinq_add_half_turn (a : BitVec 16) : sinq (a + 32768) = -sinq a := by
  have hsum : (a + 32768).toNat = (a.toNat + 32768) % 65536 := BitVec.toNat_add a 32768
  have ha := a.isLt
  obtain h | h := lt_or_ge a.toNat 32768
  · exact sinq_half_turn_of_lt h (by omega)
  · rw [sinq_half_turn_of_lt (a := a + 32768) (b := a) (by omega) (by omega), neg_neg]

/-- The wave in its first half is symmetric about the quarter turn. -/
theorem sinq_mirror {a b : BitVec 16} (h : a.toNat ≤ 32768) (hb : b.toNat = 32768 - a.toNat) :
    sinq b = sinq a := by
  obtain hlt | rfl | hgt : a.toNat < 16384 ∨ a = b ∨ 16384 < a.toNat := by
    obtain heq | hne := eq_or_ne a.toNat 16384
    · exact .inr (.inl (BitVec.eq_of_toNat_eq (by omega)))
    · omega
  · rw [sinq_of_le_16384 hlt.le, sinq_of_le_32768 (by omega) (by omega), hb,
      show 32768 - (32768 - a.toNat) = a.toNat by omega]
  · rfl
  · rw [sinq_of_le_32768 hgt h, sinq_of_le_16384 (by omega), hb]

theorem sinq_neg (a : BitVec 16) : sinq (-a) = -sinq a := by
  have ha := a.isLt
  have hneg : (-a).toNat = (65536 - a.toNat) % 65536 := BitVec.toNat_neg a
  have hsum (b : BitVec 16) : (b + 32768).toNat = (b.toNat + 32768) % 65536 :=
    BitVec.toNat_add b 32768
  obtain h | h := le_or_gt a.toNat 32768
  · rw [← sinq_mirror h (b := -a + 32768) (by rw [hsum]; omega), sinq_add_half_turn, neg_neg]
  · rw [← sinq_add_half_turn a, ← sinq_mirror (a := -a) (b := a + 32768) (by omega)
      (by rw [hsum]; omega)]

/-! ## `COS` and `SIN` by the low half of the operand (R123, R124) -/

theorem lowHalf_add (v w : Word) : lowHalf (v + w) = lowHalf v + lowHalf w := by
  apply BitVec.eq_of_toNat_eq
  simp only [toNat_lowHalf, BitVec.toNat_add]
  omega

theorem lowHalf_neg (v : Word) : lowHalf (-v) = -lowHalf v := by
  apply BitVec.eq_of_toNat_eq
  simp only [toNat_lowHalf, BitVec.toNat_neg]
  omega

theorem lowHalf_sub (v w : Word) : lowHalf (v - w) = lowHalf v - lowHalf w := by
  rw [BitVec.sub_eq_add_neg, lowHalf_add, lowHalf_neg, BitVec.sub_eq_add_neg]

theorem wrap32_neg (n : Int) : wrap32 (-n) = -wrap32 n := BitVec.ofInt_neg

theorem sinTurns_eq (v : Word) : sinTurns v = -wrap32 (sinq (lowHalf v)) := wrap32_neg _

/-- `COS` is `SIN` a quarter turn before, and so the wave a quarter turn ahead. -/
theorem sinTurns_sub_quarter_turn (v : Word) : sinTurns (v - 0x4000) = cosTurns v := by
  have hshift : lowHalf v + 16384 = lowHalf (v - 0x4000) + 32768 := by
    rw [lowHalf_sub, show lowHalf 0x4000 = 16384 from rfl]
    generalize lowHalf v = a
    bv_omega
  rw [sinTurns, cosTurns, hshift, sinq_add_half_turn]

theorem cosTurns_sub_quarter_turn (v : Word) : cosTurns (v - 0x4000) = -sinTurns v := by
  rw [cosTurns, sinTurns_eq, neg_neg, lowHalf_sub, show lowHalf 0x4000 = 16384 from rfl,
    BitVec.sub_add_cancel]

theorem sinTurns_neg (v : Word) : sinTurns (-v) = -sinTurns v := by
  rw [sinTurns_eq, sinTurns_eq, lowHalf_neg, sinq_neg, wrap32_neg]

theorem sinTurns_add_half_turn (v : Word) : sinTurns (v + 0x8000) = -sinTurns v := by
  rw [sinTurns_eq, sinTurns_eq, lowHalf_add, show lowHalf 0x8000 = 32768 from rfl,
    sinq_add_half_turn, wrap32_neg]

theorem sinTurns_add_turn (v : Word) : sinTurns (v + 0x10000) = sinTurns v := by
  rw [sinTurns_eq, sinTurns_eq, lowHalf_add, show lowHalf 0x10000 = 0 from rfl,
    show lowHalf v + 0 = lowHalf v from BitVec.add_zero _]

/-- Settles O40: `SIN` by the wave, `COS` by the quarter shift. -/
theorem turnIdentities : Obligations.TurnIdentities := by
  intro v
  have hcosNeg : cosTurns (-v) = cosTurns v :=
    calc cosTurns (-v) = sinTurns (-v - 0x4000) := (sinTurns_sub_quarter_turn _).symm
      _ = sinTurns (-(v - 0x4000 + 0x8000)) :=
        congrArg sinTurns (by bv_omega)
      _ = cosTurns v := by
        rw [sinTurns_neg, sinTurns_add_half_turn, neg_neg, sinTurns_sub_quarter_turn]
  have hcosAdd (w : Word) : cosTurns (v + w) = sinTurns (v - 0x4000 + w) := by
    rw [← sinTurns_sub_quarter_turn]
    exact congrArg sinTurns (by bv_omega)
  refine ⟨⟨?_, sinTurns_add_turn v⟩, ⟨hcosNeg, sinTurns_neg v⟩,
    ⟨(sinTurns_sub_quarter_turn v).symm, ?_⟩, ?_, sinTurns_add_half_turn v⟩
  · rw [hcosAdd, sinTurns_add_turn, sinTurns_sub_quarter_turn]
  · rw [cosTurns_sub_quarter_turn, neg_neg]
  · rw [hcosAdd, sinTurns_add_half_turn, sinTurns_sub_quarter_turn]

/-- Settles O37. -/
theorem sinqIsQuarterWaveSymmetric : Obligations.SinqIsQuarterWaveSymmetric := by
  intro a ha
  have hnat : (BitVec.ofNat 16 a).toNat = a := by
    rw [BitVec.toNat_ofNat, Nat.mod_eq_of_lt (by omega)]
  refine ⟨fun h => ?_, fun hlo hhi => ?_, fun hlo hhi => ?_, fun h => ?_⟩
  · rw [sinq_of_le_16384 (by omega), hnat]
  · rw [sinq_of_le_32768 (by omega) (by omega), hnat]
  · rw [sinq_of_le_49152 (by omega) (by omega), hnat]
  · rw [sinq_of_gt_49152 (by omega), hnat]

/-- Settles O38. -/
theorem cosAndSinResults : Obligations.CosAndSinResults := by
  intro rd ra s
  have hlow : BitVec.ofNat 16 ((s.getX ra).toNat % 65536) = lowHalf (s.getX ra) := by
    apply BitVec.eq_of_toNat_eq
    rw [toNat_lowHalf, BitVec.toNat_ofNat, Nat.mod_mod]
  have hquarter : BitVec.ofNat 16 (((s.getX ra).toNat % 65536 + 16384) % 65536)
      = lowHalf (s.getX ra) + 16384 := by
    apply BitVec.eq_of_toNat_eq
    rw [BitVec.toNat_ofNat, BitVec.toNat_add, toNat_lowHalf, Nat.mod_mod]
    rfl
  exact ⟨encodedAs_and_regEffect (o := .cos) (by decide) rfl (exec_cos rd ra s)
      (by rw [cosTurns, wrap32, hquarter]),
    encodedAs_and_regEffect (o := .sin) (by decide) rfl (exec_sin rd ra s)
      (by rw [sinTurns, wrap32, hlow])⟩

end Sys2Proof.Machine

/-! PROOFS. The Taylor loop of R128 as a sum, and its distance from the real sine: each term is at most
4 units below the real one, so 41 terms are within 165 units. -/

namespace Sys2Proof.Machine

open Finset

/-! ## The loop is a sum -/

/-- The terms of the loop, the vanishing ones included. -/
def loopTerm (bits t2 t : Nat) : Nat → Nat
  | 0 => t
  | k + 1 => loopTerm bits t2 t k * t2 / 2 ^ bits / (2 * (k + 1) * (2 * (k + 1) + 1))

/-- Once a term is 0, so is every later one. -/
theorem loopTerm_eq_zero_of_le {bits t2 t k n : Nat} (h : loopTerm bits t2 t k = 0) (hkn : k ≤ n) :
    loopTerm bits t2 t n = 0 := by
  induction n, hkn using Nat.le_induction with
  | base => exact h
  | succ n _ ih => rw [loopTerm, ih, Nat.zero_mul, Nat.zero_div, Nat.zero_div]

theorem sinLoop_eq_sum (bits t2 t fuel k : Nat) (acc : Int) :
    sinLoop bits t2 fuel (k + 1) (loopTerm bits t2 t k) (-(-1) ^ k) acc
      = acc + ∑ j ∈ range fuel, (-1) ^ (k + 1 + j) * (loopTerm bits t2 t (k + 1 + j) : Int) := by
  induction fuel generalizing k acc with
  | zero => simp [sinLoop]
  | succ fuel ih =>
    rw [sinLoop, ← loopTerm]
    split
    next hzero =>
      rw [sum_eq_zero fun j _ => ?vanishes, add_zero]
      case vanishes => rw [loopTerm_eq_zero_of_le hzero (by omega), Nat.cast_zero, mul_zero]
    next next hterm =>
      have hnext : next + 1 = loopTerm bits t2 t (k + 1) := hterm.symm
      rw [hnext, show -(-(-1 : Int) ^ k) = -(-1) ^ (k + 1) by ring, ih, sum_range_succ']
      have hshift (j : Nat) : k + 1 + 1 + j = k + 1 + (j + 1) := by omega
      have hcast : (next : Int) + 1 = loopTerm bits t2 t (k + 1) := by rw [← hnext]; rfl
      simp only [hshift, hcast]
      ring

theorem sinScaled_eq_sum (bits t : Nat) :
    sinScaled bits t
      = ∑ k ∈ range 41, (-1) ^ k * (loopTerm bits (t * t / 2 ^ bits) t k : Int) := by
  have h := sinLoop_eq_sum bits (t * t / 2 ^ bits) t 40 0 t
  simp only [Nat.zero_add, pow_zero] at h
  rw [sinScaled, sum_range_succ', pow_zero, one_mul, loopTerm, add_comm]
  simpa only [add_comm 1, loopTerm] using h

/-! ## Each term is the real term, rounded down -/

/-- The real term `x^(2k+1) / (2k+1)!`. -/
noncomputable def sineTerm (x : ℝ) (k : Nat) : ℝ := x ^ (2 * k + 1) / (2 * k + 1).factorial

theorem sineTerm_succ (x : ℝ) (k : Nat) :
    sineTerm x (k + 1) = sineTerm x k * x ^ 2 / (2 * (k + 1) * (2 * (k + 1) + 1) : Nat) := by
  have hfact : (2 * (k + 1) + 1).factorial
      = 2 * (k + 1) * (2 * (k + 1) + 1) * (2 * k + 1).factorial := by
    rw [Nat.factorial_succ, show 2 * (k + 1) = 2 * k + 1 + 1 by ring, Nat.factorial_succ]
    ring
  have hne : ((2 * k + 1).factorial : ℝ) ≠ 0 := mod_cast (2 * k + 1).factorial_ne_zero
  have hm : ((2 * (k + 1) * (2 * (k + 1) + 1) : Nat) : ℝ) ≠ 0 := by positivity
  rw [sineTerm, sineTerm, hfact, Nat.cast_mul]
  field_simp
  ring

theorem sineTerm_nonneg {x : ℝ} (hx : 0 ≤ x) (k : Nat) : 0 ≤ sineTerm x k := by
  unfold sineTerm
  positivity

theorem six_le_divisor (k : Nat) : (6 : ℝ) ≤ (2 * (k + 1) * (2 * (k + 1) + 1) : Nat) := by
  have h : 6 ≤ 2 * (k + 1) * (2 * (k + 1) + 1) := by nlinarith
  exact_mod_cast h

theorem sineTerm_le_two {x : ℝ} (hx : 0 ≤ x) (hx2 : x ≤ 2) (k : Nat) : sineTerm x k ≤ 2 := by
  induction k with
  | zero => simpa [sineTerm] using hx2
  | succ k ih =>
    have hm := six_le_divisor k
    have hpos := sineTerm_nonneg hx k
    rw [sineTerm_succ, div_le_iff₀ (by linarith)]
    nlinarith [mul_le_mul ih (show x ^ 2 ≤ 4 by nlinarith) (by positivity) (by norm_num)]

/-- A floor division as a real quotient. -/
theorem natDiv_bounds (a : Nat) {b : Nat} (hb : 0 < b) :
    ((a / b : Nat) : ℝ) ≤ a / b ∧ (a : ℝ) / b < (a / b : Nat) + 1 := by
  refine ⟨Nat.cast_div_le, ?_⟩
  rw [div_lt_iff₀ (by exact_mod_cast hb)]
  exact_mod_cast Nat.lt_mul_of_div_lt (Nat.lt_succ_self (a / b)) hb

/-- One step of the loop on a term `a` that is at most 4 units below the real term `B * T`. -/
theorem term_step {B x T a a' t2 m : ℝ} (hB : 1 ≤ B) (hx : 0 ≤ x) (hx2 : x ≤ 2) (hT2 : T ≤ 2)
    (hm : 6 ≤ m) (ha : 0 ≤ a) (ht2 : 0 ≤ t2) (hlo : a ≤ B * T) (hhi : B * T ≤ a + 4)
    (hsqlo : t2 ≤ B * x ^ 2) (hsqhi : B * x ^ 2 < t2 + 1)
    (hdivlo : a' ≤ a * t2 / (B * m)) (hdivhi : a * t2 / (B * m) < a' + 1) :
    a' ≤ B * (T * x ^ 2 / m) ∧ B * (T * x ^ 2 / m) ≤ a' + 4 := by
  have hBm : 0 < B * m := by positivity
  have hscale : B * (T * x ^ 2 / m) = (B * T) * (B * x ^ 2) / (B * m) := by
    field_simp
  have hx4 : B * x ^ 2 ≤ B * 4 := by gcongr; nlinarith
  constructor
  · calc a' ≤ a * t2 / (B * m) := hdivlo
      _ ≤ (B * T) * (B * x ^ 2) / (B * m) := by gcongr; linarith
      _ = _ := hscale.symm
  · have haB : a ≤ B * 2 := hlo.trans (by gcongr)
    have hprod : (B * T) * (B * x ^ 2) ≤ a * t2 + 18 * B := by
      have h1 : (B * T) * (B * x ^ 2) ≤ (a + 4) * (B * x ^ 2) := by gcongr
      have h2 : a * (B * x ^ 2) ≤ a * (t2 + 1) := by gcongr
      linarith
    have hdiv : (a * t2 + 18 * B) / (B * m) ≤ a * t2 / (B * m) + 3 := by
      rw [add_div]
      gcongr
      rw [div_le_iff₀ hBm]
      nlinarith
    rw [hscale]
    calc _ ≤ (a * t2 + 18 * B) / (B * m) := by gcongr
      _ ≤ a' + 4 := by linarith

theorem loopTerm_bounds {bits t : Nat} (ht : t ≤ 2 * 2 ^ bits) (k : Nat) :
    (loopTerm bits (t * t / 2 ^ bits) t k : ℝ) ≤ 2 ^ bits * sineTerm (t / 2 ^ bits) k
      ∧ 2 ^ bits * sineTerm (t / 2 ^ bits) k ≤ loopTerm bits (t * t / 2 ^ bits) t k + 4 := by
  have hB : (1 : ℝ) ≤ 2 ^ bits := one_le_pow₀ (by norm_num)
  have hx : (0 : ℝ) ≤ t / 2 ^ bits := by positivity
  have hx2 : (t : ℝ) / 2 ^ bits ≤ 2 := by
    rw [div_le_iff₀ (by positivity)]
    exact_mod_cast ht
  induction k with
  | zero =>
    have h0 : (2 : ℝ) ^ bits * sineTerm (t / 2 ^ bits) 0 = t := by
      simp only [sineTerm, mul_zero, zero_add, pow_one, Nat.factorial_one, Nat.cast_one, div_one]
      field_simp
    rw [h0, loopTerm]
    exact ⟨le_rfl, by linarith⟩
  | succ k ih =>
    obtain ⟨hlo, hhi⟩ := ih
    obtain ⟨hsqlo, hsqhi⟩ := natDiv_bounds (t * t) (b := 2 ^ bits) (by positivity)
    obtain ⟨hdivlo, hdivhi⟩ := natDiv_bounds
      (loopTerm bits (t * t / 2 ^ bits) t k * (t * t / 2 ^ bits))
      (b := 2 ^ bits * (2 * (k + 1) * (2 * (k + 1) + 1))) (by positivity)
    have hsq : ((t * t : Nat) : ℝ) / (2 ^ bits : Nat) = 2 ^ bits * (t / 2 ^ bits) ^ 2 := by
      push_cast
      field_simp
    rw [hsq] at hsqlo hsqhi
    rw [Nat.cast_mul, Nat.cast_mul (2 ^ bits), Nat.cast_pow, Nat.cast_ofNat] at hdivlo hdivhi
    rw [sineTerm_succ, loopTerm, Nat.div_div_eq_div_mul]
    exact term_step hB hx hx2 (sineTerm_le_two hx hx2 k) (six_le_divisor k)
      (Nat.cast_nonneg _) (Nat.cast_nonneg _) hlo hhi hsqlo hsqhi hdivlo hdivhi

/-! ## The sum is the sine -/

/-- The imaginary part of the exponential series is the sine series. -/
theorem expSeries_im (x : ℝ) (n : Nat) :
    (∑ m ∈ range (2 * n), (x * Complex.I) ^ m / (m.factorial : ℂ)).im
      = ∑ k ∈ range n, (-1) ^ k * sineTerm x k := by
  induction n with
  | zero => simp
  | succ n ih =>
    have heven : ((x * Complex.I) ^ (2 * n) / ((2 * n).factorial : ℂ)).im = 0 := by
      rw [mul_pow, pow_mul Complex.I, Complex.I_sq, ← Complex.ofReal_one, ← Complex.ofReal_neg,
        ← Complex.ofReal_pow, ← Complex.ofReal_pow, ← Complex.ofReal_mul, ← Complex.ofReal_natCast,
        ← Complex.ofReal_div, Complex.ofReal_im]
    have hodd : ((x * Complex.I) ^ (2 * n + 1) / ((2 * n + 1).factorial : ℂ)).im
        = (-1) ^ n * sineTerm x n := by
      have hreal : (x * Complex.I) ^ (2 * n + 1) / ((2 * n + 1).factorial : ℂ)
          = (((-1) ^ n * sineTerm x n : ℝ) : ℂ) * Complex.I := by
        rw [mul_pow, pow_succ Complex.I, pow_mul Complex.I, Complex.I_sq, sineTerm]
        push_cast
        ring
      rw [hreal, Complex.im_ofReal_mul, Complex.I_im, mul_one]
    rw [show 2 * (n + 1) = 2 * n + 1 + 1 by ring, sum_range_succ, sum_range_succ, Complex.add_im,
      Complex.add_im, ih, heven, hodd, sum_range_succ, add_zero]

/-- What 41 terms leave of the sine is far below a unit of 128 fraction bits. -/
theorem sineSeries_remainder {x : ℝ} (hx : 0 ≤ x) (hx2 : x ≤ 2) :
    |Real.sin x - ∑ k ∈ range 41, (-1) ^ k * sineTerm x k| ≤ 1 / 2 ^ 128 := by
  have hnorm : ‖(x * Complex.I : ℂ)‖ = x := by
    rw [norm_mul, Complex.norm_I, mul_one, Complex.norm_real, Real.norm_of_nonneg hx]
  have hbound := Complex.exp_bound' (x := x * Complex.I) (n := 2 * 41) (by
    rw [hnorm, div_le_iff₀ (by positivity)]
    norm_num
    linarith)
  have him := (Complex.abs_im_le_norm _).trans hbound
  rw [Complex.sub_im, Complex.exp_ofReal_mul_I_im, expSeries_im, hnorm] at him
  refine him.trans ?_
  calc x ^ (2 * 41) / ((2 * 41).factorial : ℝ) * 2 ≤ 2 ^ (2 * 41) / ((2 * 41).factorial : ℝ) * 2 := by
        gcongr
    _ ≤ 1 / 2 ^ 128 := by norm_num [Nat.factorial]

/-- The loop of R128 gives the sine of its angle, in units of `2^-bits`, to within 165 units. -/
theorem sinScaled_near {bits t : Nat} (hbits : bits ≤ 128) (ht : t ≤ 2 * 2 ^ bits) :
    |(sinScaled bits t : ℝ) - 2 ^ bits * Real.sin (t / 2 ^ bits)| ≤ 165 := by
  have hx : (0 : ℝ) ≤ t / 2 ^ bits := by positivity
  have hx2 : (t : ℝ) / 2 ^ bits ≤ 2 := by
    rw [div_le_iff₀ (by positivity)]
    exact_mod_cast ht
  have hterms : |(sinScaled bits t : ℝ)
      - 2 ^ bits * ∑ k ∈ range 41, (-1) ^ k * sineTerm (t / 2 ^ bits) k| ≤ 164 := by
    rw [sinScaled_eq_sum, mul_sum]
    push_cast
    rw [← sum_sub_distrib]
    calc _ ≤ ∑ k ∈ range 41, |(-1 : ℝ) ^ k * (loopTerm bits (t * t / 2 ^ bits) t k : ℝ)
            - 2 ^ bits * ((-1) ^ k * sineTerm (t / 2 ^ bits) k)| := abs_sum_le_sum_abs _ _
      _ ≤ ∑ k ∈ range 41, 4 := sum_le_sum fun k _ => by
        obtain ⟨hlo, hhi⟩ := loopTerm_bounds ht k
        rw [mul_left_comm, ← mul_sub, abs_mul, abs_neg_one_pow, one_mul, abs_le]
        constructor <;> linarith
      _ = 164 := by norm_num
  have hrest : |2 ^ bits * (∑ k ∈ range 41, (-1) ^ k * sineTerm (t / 2 ^ bits) k)
      - 2 ^ bits * Real.sin (t / 2 ^ bits)| ≤ 1 := by
    rw [← mul_sub, abs_mul, abs_sub_comm, abs_of_pos (by positivity)]
    calc (2 : ℝ) ^ bits * _ ≤ 2 ^ 128 * (1 / 2 ^ 128) :=
          mul_le_mul (pow_le_pow_right₀ (by norm_num) hbits) (sineSeries_remainder hx hx2)
            (abs_nonneg _) (by positivity)
      _ = 1 := by norm_num
  calc _ ≤ _ := abs_sub_le _ (2 ^ bits * ∑ k ∈ range 41, (-1) ^ k * sineTerm (t / 2 ^ bits) k) _
    _ ≤ 165 := by linarith

end Sys2Proof.Machine

/-! PROOFS. The angles of the two tables: `PI64` and `pi128` are close to the real `pi`, so the model's
sines are close to the real sines of fractions of a turn. -/

namespace Sys2Proof.Machine

open Real

/-! ## The constants for `pi` -/

theorem pi64_near : |(pi64 : ℝ) - 2 ^ 64 * π| ≤ 2 := by
  have hlo := pi_gt_d20
  have hhi := pi_lt_d20
  rw [abs_le, pi64]
  constructor <;> norm_num <;> linarith

/-- A computed sine clearly below or above one half tells on which side of `pi / 6` the angle lies. -/
theorem angle_side_of_pi_div_six {a : Nat} (ha : a ≤ 2 ^ 128) :
    (sinScaled 128 a + 165 < 2 ^ 127 → (a : ℝ) / 2 ^ 128 < π / 6)
      ∧ (2 ^ 127 + 165 < sinScaled 128 a → π / 6 < (a : ℝ) / 2 ^ 128) := by
  have hpos : (0 : ℝ) ≤ a / 2 ^ 128 := by positivity
  have hone : (a : ℝ) / 2 ^ 128 ≤ 1 := (div_le_one (by positivity)).mpr (by exact_mod_cast ha)
  have hpi := pi_gt_three
  have hangle : (a : ℝ) / 2 ^ 128 ∈ Set.Icc (-(π / 2)) (π / 2) := ⟨by linarith, by linarith⟩
  have hsixth : π / 6 ∈ Set.Icc (-(π / 2)) (π / 2) := ⟨by linarith, by linarith⟩
  obtain ⟨hlo, hhi⟩ := abs_le.mp (sinScaled_near (bits := 128) le_rfl (by omega : a ≤ 2 * 2 ^ 128))
  constructor <;> intro h
  · have hlt : (sinScaled 128 a : ℝ) + 165 < 2 ^ 127 := by exact_mod_cast h
    rw [← strictMonoOn_sin.lt_iff_lt hangle hsixth, sin_pi_div_six]
    linarith
  · have hlt : (2 : ℝ) ^ 127 + 165 < sinScaled 128 a := by exact_mod_cast h
    rw [← strictMonoOn_sin.lt_iff_lt hsixth hangle, sin_pi_div_six]
    linarith

/-- Mathlib's bounds on `pi` are too wide for 128 bits; the sine of `pi / 6` is one half, and the loop
itself tells that the angles 300 units to the left and right of `pi128 / 6` enclose it. -/
theorem pi128_near : |(pi128 : ℝ) - 2 ^ 128 * π| ≤ 2048 := by
  have hlo := (angle_side_of_pi_div_six (a := 178171430677494457976613395526978463583)
    (by decide)).1 (by decide +kernel)
  have hhi := (angle_side_of_pi_div_six (a := 178171430677494457976613395526978464183)
    (by decide)).2 (by decide +kernel)
  rw [abs_le, pi128]
  norm_num at hlo hhi ⊢
  constructor <;> linarith

/-! ## Sines of fractions of a turn -/

theorem sinScaled_near_of_angle {bits t : Nat} {θ e : ℝ} (hbits : bits ≤ 128)
    (ht : t ≤ 2 * 2 ^ bits) (hangle : |(t : ℝ) - 2 ^ bits * θ| ≤ e) :
    |(sinScaled bits t : ℝ) - 2 ^ bits * sin θ| ≤ 165 + e := by
  have hB : (0 : ℝ) < 2 ^ bits := by positivity
  have hmove : |2 ^ bits * sin (t / 2 ^ bits) - 2 ^ bits * sin θ| ≤ e :=
    calc _ = (2 : ℝ) ^ bits * |sin (t / 2 ^ bits) - sin θ| := by
          rw [← mul_sub, abs_mul, abs_of_pos hB]
      _ ≤ 2 ^ bits * |t / 2 ^ bits - θ| := mul_le_mul_of_nonneg_left (abs_sin_sub_sin_le _ _) hB.le
      _ = |(t : ℝ) - 2 ^ bits * θ| := by
        rw [← abs_of_pos hB, ← abs_mul, abs_of_pos hB, mul_sub, mul_div_cancel₀ _ hB.ne']
      _ ≤ e := hangle
  calc _ ≤ _ := abs_sub_le _ (2 ^ bits * sin (t / 2 ^ bits)) _
    _ ≤ 165 + e := add_le_add (sinScaled_near hbits ht) hmove

/-- The sine of `i / 2^n` of a half turn, at most a quarter turn, from a constant `P` for `pi`. -/
theorem sinScaled_fraction_near {bits P n i : Nat} {d : ℝ} (hbits : bits ≤ 128)
    (hP : P ≤ 4 * 2 ^ bits) (hnear : |(P : ℝ) - 2 ^ bits * π| ≤ d) (hi : 2 * i ≤ 2 ^ n) :
    |(sinScaled bits (i * P / 2 ^ n) : ℝ) - 2 ^ bits * sin (i * π / 2 ^ n)| ≤ 166 + d / 2 := by
  have ht : i * P / 2 ^ n ≤ 2 * 2 ^ bits := by
    apply Nat.div_le_of_le_mul
    nlinarith [Nat.mul_le_mul hi hP]
  have hfloor : |((i * P / 2 ^ n : Nat) : ℝ) - (i : ℝ) / 2 ^ n * P| ≤ 1 := by
    obtain ⟨hlo, hhi⟩ := natDiv_bounds (i * P) (b := 2 ^ n) (by positivity)
    push_cast at hlo hhi
    rw [abs_le, div_mul_eq_mul_div]
    constructor <;> linarith
  have hfrac : (i : ℝ) / 2 ^ n ≤ 1 / 2 := by
    rw [div_le_div_iff₀ (by positivity) (by norm_num)]
    exact_mod_cast (by omega : i * 2 ≤ 1 * 2 ^ n)
  have hconst : |(i : ℝ) / 2 ^ n * P - 2 ^ bits * (i * π / 2 ^ n)| ≤ d / 2 :=
    calc _ = (i : ℝ) / 2 ^ n * |(P : ℝ) - 2 ^ bits * π| := by
          rw [← abs_of_nonneg (by positivity : (0 : ℝ) ≤ i / 2 ^ n), ← abs_mul,
            abs_of_nonneg (by positivity : (0 : ℝ) ≤ i / 2 ^ n)]
          ring_nf
      _ ≤ 1 / 2 * d := mul_le_mul hfrac hnear (abs_nonneg _) (by norm_num)
      _ = d / 2 := by ring
  have hangle := (abs_sub_le _ ((i : ℝ) / 2 ^ n * P) _).trans (add_le_add hfloor hconst)
  exact (sinScaled_near_of_angle hbits ht hangle).trans (by linarith)

/-- The sum that `qsin` rounds. -/
theorem sinScaled64_near {i : Nat} (hi : i ≤ 16384) :
    |(sinScaled 64 (i * pi64 / 2 ^ 15) : ℝ) - 2 ^ 64 * sin (i * π / 2 ^ 15)| ≤ 167 :=
  (sinScaled_fraction_near (by norm_num) (by decide) pi64_near (by omega)).trans (by norm_num)

theorem sinBoundary_near {j : Nat} (hj : j ≤ 32768) :
    |(sinBoundary j : ℝ) - 2 ^ 128 * sin (j * π / 2 ^ 16)| ≤ 1190 :=
  (sinScaled_fraction_near le_rfl (by decide) pi128_near (by omega)).trans (by norm_num)

/-- Boundaries from the first on have a positive sine. -/
theorem sinBoundary_pos {j : Nat} (hpos : 0 < j) (hj : j ≤ 32768) : 0 < sinBoundary j := by
  have hnear := abs_le.mp (sinBoundary_near hj)
  have hj1 : (1 : ℝ) ≤ j := by exact_mod_cast hpos
  have hle : (j : ℝ) ≤ 32768 := by exact_mod_cast hj
  have hchord := mul_le_sin (x := j * π / 2 ^ 16) (by positivity) (by nlinarith [pi_pos])
  have hratio : 2 / π * (j * π / 2 ^ 16) = j / 32768 := by
    field_simp
    norm_num
  have hreal : (0 : ℝ) < sinBoundary j := by linarith [hnear.1]
  exact_mod_cast hreal

theorem sinBoundary_nonneg {j : Nat} (hj : j ≤ 32768) : 0 ≤ sinBoundary j := by
  obtain rfl | hpos := Nat.eq_zero_or_pos j
  · decide +kernel
  · exact (sinBoundary_pos hpos hj).le

/-- The cosine of a boundary is the sine of the rest of the quarter turn. -/
theorem cosBoundary_near {j : Nat} (hj : j ≤ 32768) :
    |(sinBoundary (32768 - j) : ℝ) - 2 ^ 128 * cos (j * π / 2 ^ 16)| ≤ 1190 := by
  have h := sinBoundary_near (Nat.sub_le 32768 j)
  rwa [Nat.cast_sub hj, ← cos_pi_div_two_sub,
    show π / 2 - (((32768 : Nat) : ℝ) - j) * π / 2 ^ 16 = j * π / 2 ^ 16 by push_cast; ring] at h

end Sys2Proof.Machine

/-! PROOFS. A walk through the first octant in steps of 1/65536 of a turn, as points of a circle of radius
`2^128` with integer coordinates. Each step is a multiplication by one fixed point, so a property of
all sines and cosines of a table can be checked by one short computation. -/

namespace Sys2Proof.Machine

open Real

/-! ## Points near the circle -/

/-- The point with integer coordinates, cosine first. -/
def gridPoint (s c : Nat) : ℂ := ⟨c, s⟩

/-- The point of the circle at angle `θ`. -/
noncomputable def circlePoint (θ : ℝ) : ℂ := ⟨2 ^ 128 * cos θ, 2 ^ 128 * sin θ⟩

theorem circlePoint_eq_exp (θ : ℝ) :
    circlePoint θ = (2 ^ 128 : ℝ) * Complex.exp (θ * Complex.I) := by
  apply Complex.ext
  · rw [Complex.re_ofReal_mul, Complex.exp_ofReal_mul_I_re, circlePoint]
  · rw [Complex.im_ofReal_mul, Complex.exp_ofReal_mul_I_im, circlePoint]

theorem norm_circlePoint (θ : ℝ) : ‖circlePoint θ‖ = 2 ^ 128 := by
  rw [circlePoint_eq_exp, norm_mul, Complex.norm_exp_ofReal_mul_I, mul_one, Complex.norm_real,
    norm_of_nonneg (by positivity)]

theorem circlePoint_add (θ δ : ℝ) :
    circlePoint (θ + δ) = circlePoint θ * Complex.exp (δ * Complex.I) := by
  rw [circlePoint_eq_exp, circlePoint_eq_exp, mul_assoc, ← Complex.exp_add, ← add_mul,
    Complex.ofReal_add]

/-- The point `(c, s)` is within `e` of the point of the circle at angle `θ`. -/
def NearCircle (e θ : ℝ) (s c : Nat) : Prop := ‖gridPoint s c - circlePoint θ‖ ≤ e

theorem NearCircle.sin_near {e θ : ℝ} {s c : Nat} (h : NearCircle e θ s c) :
    |(s : ℝ) - 2 ^ 128 * sin θ| ≤ e := (Complex.abs_im_le_norm _).trans h

theorem NearCircle.cos_near {e θ : ℝ} {s c : Nat} (h : NearCircle e θ s c) :
    |(c : ℝ) - 2 ^ 128 * cos θ| ≤ e := (Complex.abs_re_le_norm _).trans h

theorem NearCircle.of_sin_cos {e θ : ℝ} {s c : Nat} (hs : |(s : ℝ) - 2 ^ 128 * sin θ| ≤ e)
    (hc : |(c : ℝ) - 2 ^ 128 * cos θ| ≤ e) : NearCircle (2 * e) θ s c :=
  (Complex.norm_le_abs_re_add_abs_im _).trans ((add_le_add hc hs).trans_eq (two_mul e).symm)

theorem NearCircle.norm_le {e θ : ℝ} {s c : Nat} (h : NearCircle e θ s c) (he : e ≤ 2 ^ 128) :
    ‖gridPoint s c‖ ≤ 2 * 2 ^ 128 :=
  calc ‖gridPoint s c‖ ≤ ‖gridPoint s c - circlePoint θ‖ + ‖circlePoint θ‖ :=
        norm_le_norm_sub_add _ _
    _ ≤ 2 ^ 128 + 2 ^ 128 := add_le_add (h.trans he) (norm_circlePoint θ).le
    _ = 2 * 2 ^ 128 := (two_mul _).symm

/-- The rounded product of two points lies near their exact product. -/
theorem rounded_product_near {s c sd cd : Nat} (hle : s * sd ≤ c * cd) :
    ‖gridPoint ((s * cd + c * sd) / 2 ^ 128) ((c * cd - s * sd) / 2 ^ 128)
      - gridPoint s c * (gridPoint sd cd / (2 ^ 128 : ℝ))‖ ≤ 2 := by
  obtain ⟨hre, hre'⟩ := natDiv_bounds (c * cd - s * sd) (b := 2 ^ 128) (by positivity)
  obtain ⟨him, him'⟩ := natDiv_bounds (s * cd + c * sd) (b := 2 ^ 128) (by positivity)
  rw [Nat.cast_sub hle] at hre hre'
  simp only [Nat.cast_add, Nat.cast_mul, Nat.cast_pow, Nat.cast_ofNat] at hre hre' him him'
  refine (Complex.norm_le_abs_re_add_abs_im _).trans
    ((add_le_add (b := 1) (d := 1) ?_ ?_).trans (by norm_num))
  all_goals
    simp only [Complex.sub_re, Complex.sub_im, Complex.mul_re, Complex.mul_im,
      Complex.div_ofReal_re, Complex.div_ofReal_im, gridPoint]
    rw [abs_le]
    constructor <;> linarith

/-- One step of the walk: the errors of the two factors and of the rounding add up. -/
theorem NearCircle.rotate {e η θ δ : ℝ} {s c sd cd : Nat} (h : NearCircle e θ s c)
    (hd : NearCircle η δ sd cd) (hle : s * sd ≤ c * cd) (he : e ≤ 2 ^ 128) :
    NearCircle (e + (2 * η + 2)) (θ + δ)
      ((s * cd + c * sd) / 2 ^ 128) ((c * cd - s * sd) / 2 ^ 128) := by
  have hfactor : ‖gridPoint s c * (gridPoint sd cd / (2 ^ 128 : ℝ))
      - gridPoint s c * Complex.exp (δ * Complex.I)‖ ≤ 2 * η := by
    have hsplit : gridPoint s c * (gridPoint sd cd / (2 ^ 128 : ℝ))
          - gridPoint s c * Complex.exp (δ * Complex.I)
        = gridPoint s c / (2 ^ 128 : ℝ) * (gridPoint sd cd - circlePoint δ) := by
      rw [circlePoint_eq_exp]
      push_cast
      ring
    rw [hsplit, norm_mul, norm_div, Complex.norm_real, norm_of_nonneg (by positivity)]
    refine mul_le_mul ?_ hd (norm_nonneg _) (by norm_num)
    exact (div_le_iff₀ (by positivity)).mpr (h.norm_le he)
  have hturned : ‖gridPoint s c * Complex.exp (δ * Complex.I) - circlePoint (θ + δ)‖ ≤ e := by
    rw [circlePoint_add, ← sub_mul, norm_mul, Complex.norm_exp_ofReal_mul_I, mul_one]
    exact h
  calc _ ≤ _ := norm_sub_le_norm_sub_add_norm_sub _
        (gridPoint s c * (gridPoint sd cd / (2 ^ 128 : ℝ))) _
    _ ≤ 2 + (2 * η + e) := add_le_add (rounded_product_near hle)
        ((norm_sub_le_norm_sub_add_norm_sub _ _ _).trans (add_le_add hfactor hturned))
    _ = e + (2 * η + 2) := by ring

/-! ## The walk -/

/-- Whether `check` answers true at each of the first `n` points of the walk from `(c, s)` with the
rotation `(cd, sd)`, and no cosine on the way is negative. -/
def walk (sd cd : Nat) (check : Nat → Nat → Bool) : (n s c : Nat) → Bool
  | 0, _, _ => true
  | n + 1, s, c =>
    check s c && Nat.ble (s * sd) (c * cd)
      && walk sd cd check n ((s * cd + c * sd) / 2 ^ 128) ((c * cd - s * sd) / 2 ^ 128)

theorem walk_sound {sd cd n s c : Nat} {check : Nat → Nat → Bool} {e η θ δ E : ℝ}
    (hwalk : walk sd cd check n s c = true) (h : NearCircle e θ s c) (hd : NearCircle η δ sd cd)
    (hη : 0 ≤ η) (hE : e + n * (2 * η + 2) ≤ E) (hE128 : E ≤ 2 ^ 128) {k : Nat} (hk : k < n) :
    ∃ s' c', NearCircle E (θ + k * δ) s' c' ∧ check s' c' = true := by
  induction n generalizing s c e θ k with
  | zero => omega
  | succ n ih =>
    simp only [walk, Bool.and_eq_true, Nat.ble_eq] at hwalk
    obtain ⟨⟨hcheck, hle⟩, hrest⟩ := hwalk
    have hn : (0 : ℝ) ≤ n * (2 * η + 2) := by positivity
    push_cast at hE
    cases k with
    | zero =>
      refine ⟨s, c, ?_, hcheck⟩
      rw [Nat.cast_zero, zero_mul, add_zero]
      exact h.trans (by linarith)
    | succ k =>
      obtain ⟨s', c', hnear, htrue⟩ := ih hrest (h.rotate hd hle (by linarith)) (by linarith)
        (Nat.lt_of_succ_lt_succ hk)
      refine ⟨s', c', ?_, htrue⟩
      rwa [add_assoc, ← one_add_mul, add_comm 1, ← Nat.cast_succ] at hnear

/-- The point at boundary angle `j`, by the model's sines. -/
theorem boundaryPoint_near {j : Nat} (hj : j ≤ 32768) :
    NearCircle 2380 (j * π / 2 ^ 16) (sinBoundary j).toNat (sinBoundary (32768 - j)).toNat := by
  have hcast {i : Nat} (hi : i ≤ 32768) : (((sinBoundary i).toNat : Nat) : ℝ) = sinBoundary i := by
    exact_mod_cast congrArg (Int.cast : Int → ℝ) (Int.toNat_of_nonneg (sinBoundary_nonneg hi))
  have h := NearCircle.of_sin_cos (s := (sinBoundary j).toNat) (c := (sinBoundary (32768 - j)).toNat)
    (hcast hj ▸ sinBoundary_near hj) (hcast (Nat.sub_le _ _) ▸ cosBoundary_near hj)
  exact h.trans_eq (by norm_num)

/-- The walk from boundary angle `start` over every other boundary angle. -/
def octantWalk (check : Nat → Nat → Bool) (start n : Nat) : Bool :=
  walk (sinBoundary 2).toNat (sinBoundary 32766).toNat check n
    (sinBoundary start).toNat (sinBoundary (32768 - start)).toNat

theorem octantWalk_sound {check : Nat → Nat → Bool} {start n k : Nat}
    (hwalk : octantWalk check start n = true) (hstart : start ≤ 32768) (hn : n ≤ 8193) (hk : k < n) :
    ∃ s c, NearCircle (2 ^ 27) ((start + 2 * k : Nat) * π / 2 ^ 16) s c ∧ check s c = true := by
  have hn' : (n : ℝ) ≤ 8193 := by exact_mod_cast hn
  have h := walk_sound (E := 2 ^ 27) hwalk (boundaryPoint_near hstart)
    (boundaryPoint_near (j := 2) (by norm_num)) (by norm_num) (by linarith) (by norm_num) hk
  rwa [show (start : ℝ) * π / 2 ^ 16 + k * ((2 : Nat) * π / 2 ^ 16)
    = (start + 2 * k : Nat) * π / 2 ^ 16 by push_cast; ring] at h

end Sys2Proof.Machine

/-! PROOFS. `QSIN` is the correctly rounded sine (43_trig.md R121): along the first octant no scaled sine or
cosine comes near a half-integer, and so neither the sum of R128 nor the real sine lies on the other
side of one. -/

namespace Sys2Proof.Machine

open Real

/-! ## Rounding away from ties -/

/-- No half-integer lies within `2^-34` of `v`. -/
def AwayFromTie (v : ℝ) : Prop := ∀ m : Int, 1 / 2 ^ 34 < |v - (m + 1 / 2)|

/-- A value away from ties is less than half a unit from the integer that a value near it rounds to. -/
theorem AwayFromTie.abs_sub_lt {u v : ℝ} {n : Nat} (hv : AwayFromTie v) (huv : |u - v| ≤ 1 / 2 ^ 34)
    (hlo : n ≤ u + 1 / 2) (hhi : u + 1 / 2 < n + 1) : |v - n| < 1 / 2 := by
  have habove := hv n
  have hbelow := hv (n - 1)
  rw [abs_le] at huv
  push_cast at habove hbelow
  rw [lt_abs] at habove hbelow
  rw [abs_lt]
  constructor
  · obtain h | h := hbelow <;> linarith
  · obtain h | h := habove <;> linarith

/-- Whether the coordinate `x`, which scales `65536 * sin` by `2^112`, is `2^79` or more from a tie. -/
def offTie (x : Nat) : Bool := Nat.ble (2 ^ 80) ((x + 2 ^ 111 + 2 ^ 79) % 2 ^ 112)

theorem offTie_sound {x : Nat} (h : offTie x = true) (m : Int) :
    2 ^ 79 ≤ |(x : Int) - (m * 2 ^ 112 + 2 ^ 111)| := by
  rw [offTie, Nat.ble_eq] at h
  rw [le_abs]
  omega

theorem awayFromTie_of_offTie {x : Nat} {y : ℝ} (h : offTie x = true)
    (hnear : |(x : ℝ) - 2 ^ 128 * y| ≤ 2 ^ 27) : AwayFromTie (65536 * y) := by
  intro m
  have hint : (2 : ℝ) ^ 79 ≤ |(x : ℝ) - (m * 2 ^ 112 + 2 ^ 111)| := by
    exact_mod_cast offTie_sound h m
  have htri := hint.trans (abs_sub_le _ (2 ^ 128 * y) _)
  rw [show 2 ^ 128 * y - (m * 2 ^ 112 + 2 ^ 111) = 2 ^ 112 * (65536 * y - (m + 1 / 2)) by ring,
    abs_mul, abs_of_pos (show (0 : ℝ) < 2 ^ 112 by positivity)] at htri
  generalize |65536 * y - (m + 1 / 2)| = d at htri ⊢
  linarith

/-! ## The table -/

def offTies (s c : Nat) : Bool := offTie s && offTie c

/-- The whole table of R130, checked: the 8193 steps of the walk are the rows 0 to 8192 of `QSIN` and,
by the cosines, the rows 16384 to 8192. -/
theorem octantWalk_offTies : octantWalk offTies 0 8193 = true := by decide +kernel

theorem octant_awayFromTie {k : Nat} (hk : k ≤ 8192) :
    AwayFromTie (65536 * sin (k * π / 2 ^ 15)) ∧ AwayFromTie (65536 * cos (k * π / 2 ^ 15)) := by
  obtain ⟨s, c, hnear, hties⟩ := octantWalk_sound octantWalk_offTies (by norm_num) le_rfl
    (Nat.lt_succ_of_le hk)
  obtain ⟨hs, hc⟩ := Bool.and_eq_true_iff.mp hties
  rw [show ((0 + 2 * k : Nat) : ℝ) * π / 2 ^ 16 = k * π / 2 ^ 15 by push_cast; ring] at hnear
  exact ⟨awayFromTie_of_offTie hs hnear.sin_near, awayFromTie_of_offTie hc hnear.cos_near⟩

theorem quarter_awayFromTie {i : Nat} (hi : i ≤ 16384) :
    AwayFromTie (65536 * sin (i * π / 2 ^ 15)) := by
  obtain h | h := le_or_gt i 8192
  · exact (octant_awayFromTie h).1
  · have hcos := (octant_awayFromTie (k := 16384 - i) (by omega)).2
    rwa [Nat.cast_sub hi, ← sin_pi_div_two_sub,
      show π / 2 - (((16384 : Nat) : ℝ) - i) * π / 2 ^ 15 = i * π / 2 ^ 15 by push_cast; ring] at hcos

/-- The sum of R128 is never so far below 0 that its rounding is cut off. -/
theorem qsin_eq_div {i : Nat} (hi : i ≤ 16384) :
    (qsin i : Int) = (sinScaled 64 (i * pi64 / 2 ^ 15) + 2 ^ 47) / 2 ^ 48 := by
  have hle : (i : ℝ) ≤ 16384 := by exact_mod_cast hi
  have hsin : 0 ≤ sin (i * π / 2 ^ 15) :=
    sin_nonneg_of_nonneg_of_le_pi (by positivity) (by nlinarith [pi_pos])
  have hnear := (abs_le.mp (sinScaled64_near hi)).1
  have hreal : (-167 : ℝ) ≤ sinScaled 64 (i * pi64 / 2 ^ 15) := by linarith
  have hint : -167 ≤ sinScaled 64 (i * pi64 / 2 ^ 15) := by exact_mod_cast hreal
  rw [qsin]
  omega

/-- The table entry is within half a unit of the scaled sine. -/
theorem qsin_near {i : Nat} (hi : i ≤ 16384) :
    |65536 * sin (i * π / 2 ^ 15) - (qsin i : ℝ)| < 1 / 2 := by
  have hnear := sinScaled64_near hi
  have hdiv := qsin_eq_div hi
  generalize sinScaled 64 (i * pi64 / 2 ^ 15) = S at hnear hdiv
  have hlo : (qsin i * 2 ^ 48 : ℝ) ≤ S + 2 ^ 47 := by
    exact_mod_cast (by omega : (qsin i : Int) * 2 ^ 48 ≤ S + 2 ^ 47)
  have hhi : (S + 2 ^ 47 : ℝ) < (qsin i + 1) * 2 ^ 48 := by
    exact_mod_cast (by omega : S + 2 ^ 47 < ((qsin i : Int) + 1) * 2 ^ 48)
  rw [abs_le] at hnear
  refine (quarter_awayFromTie hi).abs_sub_lt (u := S / 2 ^ 48) ?_ ?_ ?_
  · rw [abs_le]
    constructor <;> linarith
  · linarith
  · linarith

/-- Settles O36. -/
theorem qsinIsCorrectlyRounded : Obligations.QsinIsCorrectlyRounded := by
  intro i hi
  rw [show 2 * π * i / 65536 = i * π / 2 ^ 15 by ring]
  exact qsin_near hi

/-! ## The whole wave (R120, R122) -/

/-- A value rounds to nearest and its negation to the negation. -/
theorem abs_neg_sub_neg_lt {v e : ℝ} {n : Nat} (h : |65536 * v - (n : ℝ)| < e) :
    |65536 * -v - ((-(n : Int) : Int) : ℝ)| < e := by
  rw [← abs_neg] at h
  rwa [Int.cast_neg, Int.cast_natCast,
    show 65536 * -v - -(n : ℝ) = -(65536 * v - n) by ring]

/-- `sinq` is the rounded sine of every angle index, by the symmetries of its quarters. -/
theorem sinq_near (a : BitVec 16) : |65536 * sin (a.toNat * π / 2 ^ 15) - (sinq a : ℝ)| < 1 / 2 := by
  have ha := a.isLt
  obtain h1 | h1 := le_or_gt a.toNat 16384
  · rw [sinq_of_le_16384 h1]
    exact qsin_near h1
  obtain h2 | h2 := le_or_gt a.toNat 32768
  · have h := qsin_near (i := 32768 - a.toNat) (by omega)
    rw [Nat.cast_sub h2, ← sin_pi_sub, show π - (((32768 : Nat) : ℝ) - a.toNat) * π / 2 ^ 15
      = a.toNat * π / 2 ^ 15 by push_cast; ring] at h
    rw [sinq_of_le_32768 h1 h2]
    exact h
  obtain h3 | h3 := le_or_gt a.toNat 49152
  · have h := abs_neg_sub_neg_lt (qsin_near (i := a.toNat - 32768) (by omega))
    rw [Nat.cast_sub h2.le, ← sin_add_pi, show ((a.toNat : ℝ) - (32768 : Nat)) * π / 2 ^ 15 + π
      = a.toNat * π / 2 ^ 15 by push_cast; ring] at h
    rwa [sinq_of_le_49152 h2 h3]
  · have h := abs_neg_sub_neg_lt (qsin_near (i := 65536 - a.toNat) (by omega))
    rw [Nat.cast_sub ha.le, ← sin_neg, ← sin_add_two_pi,
      show -((((2 ^ 16 : Nat) : ℝ) - a.toNat) * π / 2 ^ 15) + 2 * π
        = a.toNat * π / 2 ^ 15 by push_cast; ring] at h
    rwa [sinq_of_gt_49152 h3]

/-- The same for an angle index in any turn. -/
theorem sinq_ofInt_near (n : Int) :
    |65536 * sin (n * π / 2 ^ 15) - (sinq (BitVec.ofInt 16 n) : ℝ)| < 1 / 2 := by
  have h := sinq_near (BitVec.ofInt 16 n)
  have hnat : ((BitVec.ofInt 16 n).toNat : Int) = n - (n / 65536) * 65536 := by
    rw [BitVec.toNat_ofInt]
    omega
  have hreal : ((BitVec.ofInt 16 n).toNat : ℝ) = n - (n / 65536 : Int) * 65536 := by
    exact_mod_cast congrArg (Int.cast : Int → ℝ) hnat
  rwa [hreal, show (n - (n / 65536 : Int) * 65536 : ℝ) * π / 2 ^ 15
    = n * π / 2 ^ 15 - (n / 65536 : Int) * (2 * π) by ring, sin_sub_int_mul_two_pi] at h

theorem sinq_bounds (a : BitVec 16) : -65536 ≤ sinq a ∧ sinq a ≤ 65536 := by
  have h := abs_lt.mp (sinq_near a)
  have hlo := neg_one_le_sin (a.toNat * π / 2 ^ 15)
  have hhi := sin_le_one (a.toNat * π / 2 ^ 15)
  have hgt : (-65537 : ℝ) < sinq a := by linarith
  have hlt : (sinq a : ℝ) < 65537 := by linarith
  have hgt' : -65537 < sinq a := by exact_mod_cast hgt
  have hlt' : sinq a < 65537 := by exact_mod_cast hlt
  omega

theorem lowHalf_eq_ofInt (v : Word) : lowHalf v = BitVec.ofInt 16 (s32 v) := by
  apply BitVec.eq_of_toNat_eq
  have hv := v.isLt
  rw [toNat_lowHalf, BitVec.toNat_ofInt, s32, BitVec.toInt_eq_toNat_cond]
  split_ifs <;> omega

theorem s32_cosTurns (v : Word) : s32 (cosTurns v) = sinq (BitVec.ofInt 16 (s32 v + 16384)) := by
  have hb := sinq_bounds (lowHalf v + 16384)
  rw [cosTurns, s32_wrap32 (by omega) (by omega), lowHalf_eq_ofInt, BitVec.ofInt_add]
  rfl

theorem s32_sinTurns (v : Word) : s32 (sinTurns v) = -sinq (BitVec.ofInt 16 (s32 v)) := by
  have hb := sinq_bounds (lowHalf v)
  rw [sinTurns, s32_wrap32 (by omega) (by omega), lowHalf_eq_ofInt]

theorem fx_cast (v : Word) : (fx v : ℝ) = (s32 v : ℝ) / 65536 := by
  rw [fx]
  push_cast
  rfl

/-- Settles O39: the cosine is the sine a quarter turn ahead, the sine of the negated angle is negated. -/
theorem cosAndSinAreCorrectlyRounded : Obligations.CosAndSinAreCorrectlyRounded := by
  intro rd ra s
  refine ⟨⟨_, exec_cos rd ra s, ?_⟩, _, exec_sin rd ra s, ?_⟩
  · rw [getX_setX_same, ← s32, s32_cosTurns, fx_cast]
    have h := sinq_ofInt_near (s32 (s.getX ra) + 16384)
    rw [show (((s32 (s.getX ra) + 16384 : Int) : ℝ)) * π / 2 ^ 15
      = π / 2 - -2 * π * (s32 (s.getX ra) / 65536) by push_cast; ring, sin_pi_div_two_sub] at h
    exact h
  · rw [getX_setX_same, ← s32, s32_sinTurns, fx_cast]
    have h := sinq_ofInt_near (s32 (s.getX ra))
    generalize sinq (BitVec.ofInt 16 (s32 (s.getX ra))) = w at h ⊢
    rw [← abs_neg] at h
    rwa [show -2 * π * (s32 (s.getX ra) / 65536 : ℝ) = -((s32 (s.getX ra)) * π / 2 ^ 15) by ring,
      sin_neg, Int.cast_neg, mul_neg, neg_sub_neg, ← neg_sub]

end Sys2Proof.Machine

/-! PROOFS. The arctangent on integers (43_trig.md R125, R126, R129). The search for the rounded angle
depends only on which boundaries a direction has passed, and a direction further round has passed more;
symmetries, scale and monotonicity follow without any real angle. -/

namespace Sys2Proof.Machine

/-! ## The search for the greatest boundary passed -/

theorem octantSearch_of_passed {p q b k : Nat} (hk : k + 2 ^ b ≤ 8192)
    (h : pastBoundary p q (k + 2 ^ b) = true) :
    octantSearch p q (b + 1) k = octantSearch p q b (k + 2 ^ b) := by
  rw [octantSearch, if_pos (by simp [hk, h])]

theorem octantSearch_of_not_passed {p q b k : Nat}
    (h : k + 2 ^ b ≤ 8192 → pastBoundary p q (k + 2 ^ b) = false) :
    octantSearch p q (b + 1) k = octantSearch p q b k := by
  rw [octantSearch, if_neg]
  intro hand
  obtain ⟨hle, hpast⟩ := Bool.and_eq_true_iff.mp hand
  rw [h (of_decide_eq_true hle)] at hpast
  exact Bool.false_ne_true hpast

/-- The next digit of the search is taken or not. -/
theorem octantSearch_cases (p q b k : Nat) :
    (k + 2 ^ b ≤ 8192 ∧ pastBoundary p q (k + 2 ^ b) = true)
      ∨ (k + 2 ^ b ≤ 8192 → pastBoundary p q (k + 2 ^ b) = false) := by
  by_cases hle : k + 2 ^ b ≤ 8192
  · cases h : pastBoundary p q (k + 2 ^ b) with
    | false => exact .inr fun _ => rfl
    | true => exact .inl ⟨hle, rfl⟩
  · exact .inr fun h => absurd h hle

/-- What stands of the search: the answer `r` has passed its boundary and not the next one. -/
structure IsLastPassed (p q r : Nat) : Prop where
  le : r ≤ 8192
  passed : r = 0 ∨ pastBoundary p q r = true
  next_not_passed : r + 1 ≤ 8192 → pastBoundary p q (r + 1) = false

theorem octantSearch_isLastPassed {p q b k : Nat} (hk : k ≤ 8192)
    (hpassed : k = 0 ∨ pastBoundary p q k = true)
    (hnext : k + 2 ^ b ≤ 8192 → pastBoundary p q (k + 2 ^ b) = false) :
    IsLastPassed p q (octantSearch p q b k) := by
  induction b generalizing k with
  | zero => exact ⟨hk, hpassed, hnext⟩
  | succ b ih =>
    obtain ⟨hle, hpast⟩ | hnot := octantSearch_cases p q b k
    · rw [octantSearch_of_passed hle hpast]
      refine ih hle (.inr hpast) ?_
      rwa [add_assoc, ← two_mul, ← pow_succ']
    · rw [octantSearch_of_not_passed hnot]
      exact ih hk hpassed hnot

theorem octant_isLastPassed (p q : Nat) : IsLastPassed p q (octant p q) :=
  octantSearch_isLastPassed (Nat.zero_le _) (.inl rfl) (by norm_num)

theorem octant_le (p q : Nat) : octant p q ≤ 8192 := (octant_isLastPassed p q).le

theorem octantSearch_bounds (p q b k : Nat) :
    k ≤ octantSearch p q b k ∧ octantSearch p q b k < k + 2 ^ b := by
  induction b generalizing k with
  | zero => simp [octantSearch]
  | succ b ih =>
    have hpow : 2 ^ (b + 1) = 2 * 2 ^ b := pow_succ' 2 b
    obtain ⟨hle, hpast⟩ | hnot := octantSearch_cases p q b k
    · have h := ih (k + 2 ^ b)
      rw [octantSearch_of_passed hle hpast]
      omega
    · have h := ih k
      rw [octantSearch_of_not_passed hnot]
      omega

/-- A direction that has passed all the boundaries another has passed is not given less. -/
theorem octantSearch_mono {p q p' q' : Nat}
    (h : ∀ k, 0 < k → k ≤ 8192 → pastBoundary p q k = true → pastBoundary p' q' k = true) (b k : Nat) :
    octantSearch p q b k ≤ octantSearch p' q' b k := by
  induction b generalizing k with
  | zero => exact le_rfl
  | succ b ih =>
    obtain ⟨hle, hpast⟩ | hnot := octantSearch_cases p q b k
    · rw [octantSearch_of_passed hle hpast, octantSearch_of_passed hle (h _ (by positivity) hle hpast)]
      exact ih _
    · rw [octantSearch_of_not_passed hnot]
      obtain ⟨hle', hpast'⟩ | hnot' := octantSearch_cases p' q' b k
      · rw [octantSearch_of_passed hle' hpast']
        exact (octantSearch_bounds p q b k).2.le.trans (octantSearch_bounds p' q' b _).1
      · rw [octantSearch_of_not_passed hnot']
        exact ih k

/-! ## Boundaries -/

theorem pastBoundary_iff (p q k : Nat) : pastBoundary p q k = true ↔
    p * sinBoundary (2 * k - 1) < q * sinBoundary (32768 - (2 * k - 1)) := decide_eq_true_iff

/-- What lies further round has passed every boundary that has been passed. -/
theorem pastBoundary_mono {p q p' q' k : Nat} (hk : 0 < k) (hk' : k ≤ 8192) (hp : 0 < p) (hp' : 0 < p')
    (hcross : q * p' ≤ q' * p) (h : pastBoundary p q k = true) : pastBoundary p' q' k = true := by
  rw [pastBoundary_iff] at h ⊢
  have hcos := sinBoundary_pos (j := 32768 - (2 * k - 1)) (by omega) (by omega)
  generalize sinBoundary (2 * k - 1) = S at h ⊢
  generalize sinBoundary (32768 - (2 * k - 1)) = C at h hcos ⊢
  zify at hp hp' hcross
  refine lt_of_mul_lt_mul_left (a := (p : Int)) ?_ hp.le
  calc (p : Int) * (p' * S) = p' * (p * S) := by ring
    _ < p' * (q * C) := mul_lt_mul_of_pos_left h hp'
    _ = q * p' * C := by ring
    _ ≤ q' * p * C := mul_le_mul_of_nonneg_right hcross hcos.le
    _ = p * (q' * C) := by ring

theorem octant_mono {p q p' q' : Nat} (hp : 0 < p) (hp' : 0 < p') (hcross : q * p' ≤ q' * p) :
    octant p q ≤ octant p' q' :=
  octantSearch_mono (fun _ hk hk' => pastBoundary_mono hk hk' hp hp' hcross) 14 0

theorem octant_zero_right (p : Nat) : octant p 0 = 0 := by
  obtain ⟨hle, hzero | hpast, -⟩ := octant_isLastPassed p 0
  · exact hzero
  · have hsin := sinBoundary_nonneg (j := 2 * octant p 0 - 1) (by omega)
    rw [pastBoundary_iff, Nat.cast_zero, zero_mul] at hpast
    exact absurd hpast (not_lt.mpr (by positivity))

/-- The last boundary lies below the diagonal. -/
theorem octant_self {p : Nat} (hp : 0 < p) : octant p p = 8192 := by
  have hlast : pastBoundary p p (0 + 2 ^ 13) = true := by
    rw [pastBoundary_iff]
    exact mul_lt_mul_of_pos_left (by decide +kernel) (by exact_mod_cast hp)
  refine le_antisymm (octant_le p p) ?_
  rw [octant, octantSearch_of_passed (by norm_num) hlast]
  exact (octantSearch_bounds p p 13 _).1

/-! ## The first quadrant -/

theorem quadrant_of_le {a b : Nat} (h : b ≤ a) : quadrant a b = octant a b := if_pos h

theorem quadrant_of_lt {a b : Nat} (h : a < b) : quadrant a b = 16384 - octant b a :=
  if_neg (not_le.mpr h)

theorem quadrant_le (a b : Nat) : quadrant a b ≤ 16384 := by
  have hle := octant_le a b
  rw [quadrant]
  split_ifs <;> omega

theorem quadrant_zero_right (a : Nat) : quadrant a 0 = 0 := by
  rw [quadrant_of_le (Nat.zero_le a), octant_zero_right]

theorem quadrant_zero_left {b : Nat} (h : 0 < b) : quadrant 0 b = 16384 := by
  rw [quadrant_of_lt h, octant_zero_right]

theorem quadrant_self {a : Nat} (h : 0 < a) : quadrant a a = 8192 := by
  rw [quadrant_of_le le_rfl, octant_self h]

/-- Reflection in the diagonal. -/
theorem quadrant_swap {a b : Nat} (h : 0 < a ∨ 0 < b) : quadrant b a = 16384 - quadrant a b := by
  have hab := octant_le a b
  have hba := octant_le b a
  obtain hlt | rfl | hgt := lt_trichotomy a b
  · rw [quadrant_of_le hlt.le, quadrant_of_lt hlt]
    omega
  · rw [quadrant_self (by omega)]
  · rw [quadrant_of_le hgt.le, quadrant_of_lt hgt]

theorem quadrant_mono {a b a' b' : Nat} (h : 0 < a ∨ 0 < b) (h' : 0 < a' ∨ 0 < b')
    (hcross : b * a' ≤ b' * a) : quadrant a b ≤ quadrant a' b' := by
  have hab := octant_le a b
  have hba' := octant_le b' a'
  obtain hle | hlt := le_or_gt b a <;> obtain hle' | hlt' := le_or_gt b' a'
  · rw [quadrant_of_le hle, quadrant_of_le hle']
    exact octant_mono (by omega) (by omega) hcross
  · rw [quadrant_of_le hle, quadrant_of_lt hlt']
    omega
  · have hreturn : b * a' ≤ a * a' :=
      hcross.trans ((Nat.mul_le_mul_right a hle').trans_eq (mul_comm _ _))
    exact absurd (Nat.le_of_mul_le_mul_right hreturn (by omega)) (not_le.mpr hlt)
  · rw [quadrant_of_lt hlt, quadrant_of_lt hlt']
    have hswapped := octant_mono (p := b') (q := a') (p' := b) (q' := a) (by omega) (by omega)
      ((mul_comm a' b).trans_le (hcross.trans_eq (mul_comm b' a)))
    omega

theorem quadrant_scale {a b k : Nat} (h : 0 < a ∨ 0 < b) (hk : 0 < k) :
    quadrant (k * a) (k * b) = quadrant a b := by
  have hscaled : 0 < k * a ∨ 0 < k * b := h.imp (Nat.mul_pos hk) (Nat.mul_pos hk)
  have hcross : k * b * a = b * (k * a) := by ring
  exact le_antisymm (quadrant_mono hscaled h hcross.le) (quadrant_mono h hscaled hcross.ge)

/-! ## All directions (R125) -/

theorem atanT_origin : atanT 0 0 = 49152 := by rw [atanT, if_pos ⟨rfl, rfl⟩]

theorem atanT_lt (X Y : Int) : atanT X Y < 65536 := by
  rw [atanT]
  split_ifs
  · norm_num
  all_goals exact Nat.mod_lt _ (by norm_num)

/-- The four quadrants of a direction, each closed where its two axes agree with its neighbours. -/
theorem atanT_first {X Y : Int} (h : ¬(X = 0 ∧ Y = 0)) (hX : 0 ≤ X) (hY : Y ≤ 0) :
    atanT X Y = quadrant X.natAbs Y.natAbs := by
  have hle := quadrant_le X.natAbs Y.natAbs
  simp only [atanT, if_neg h, if_pos hX, if_pos hY]
  omega

theorem atanT_second {X Y : Int} (h : ¬(X = 0 ∧ Y = 0)) (hX : X ≤ 0) (hY : Y ≤ 0) :
    atanT X Y = 32768 - quadrant X.natAbs Y.natAbs := by
  have hle := quadrant_le X.natAbs Y.natAbs
  obtain hlt | rfl := hX.lt_or_eq
  · simp only [atanT, if_neg h, if_neg (not_le.mpr hlt), if_pos hY]
    omega
  · rw [atanT_first h le_rfl hY, Int.natAbs_zero, quadrant_zero_left (by omega)]

theorem atanT_fourth {X Y : Int} (h : ¬(X = 0 ∧ Y = 0)) (hX : 0 ≤ X) (hY : 0 ≤ Y) :
    atanT X Y = (65536 - quadrant X.natAbs Y.natAbs) % 65536 := by
  obtain hlt | rfl := hY.lt_or_eq
  · simp only [atanT, if_neg h, if_pos hX, if_neg (not_le.mpr hlt)]
  · rw [atanT_first h hX le_rfl, Int.natAbs_zero, quadrant_zero_right]

theorem atanT_third {X Y : Int} (h : ¬(X = 0 ∧ Y = 0)) (hX : X ≤ 0) (hY : 0 ≤ Y) :
    atanT X Y = 32768 + quadrant X.natAbs Y.natAbs := by
  have hle := quadrant_le X.natAbs Y.natAbs
  obtain rfl | hY' := hY.eq_or_lt
  · rw [atanT_second h hX le_rfl, Int.natAbs_zero, quadrant_zero_right]
  obtain hX' | rfl := hX.lt_or_eq
  · simp only [atanT, if_neg h, if_neg (not_le.mpr hX'), if_neg (not_le.mpr hY')]
    omega
  · rw [atanT_fourth h le_rfl hY, Int.natAbs_zero, quadrant_zero_left (by omega)]

/-! ## Symmetries (R129) -/

theorem natAbs_pos_or {X Y : Int} (h : ¬(X = 0 ∧ Y = 0)) : 0 < X.natAbs ∨ 0 < Y.natAbs := by omega

theorem atanT_opposite {X Y : Int} (h : ¬(X = 0 ∧ Y = 0)) :
    atanT (-X) (-Y) = (atanT X Y + 32768) % 65536 := by
  have h' : ¬(-X = 0 ∧ -Y = 0) := by omega
  have hle := quadrant_le X.natAbs Y.natAbs
  obtain hX | hX := le_total 0 X <;> obtain hY | hY := le_total Y 0
  · rw [atanT_first h hX hY, atanT_third h' (by omega) (by omega), Int.natAbs_neg, Int.natAbs_neg]
    omega
  · rw [atanT_fourth h hX hY, atanT_second h' (by omega) (by omega), Int.natAbs_neg, Int.natAbs_neg]
    omega
  · rw [atanT_second h hX hY, atanT_fourth h' (by omega) (by omega), Int.natAbs_neg, Int.natAbs_neg]
    omega
  · rw [atanT_third h hX hY, atanT_first h' (by omega) (by omega), Int.natAbs_neg, Int.natAbs_neg]
    omega

theorem atanT_mirror {X Y : Int} (h : ¬(X = 0 ∧ Y = 0)) :
    (atanT X (-Y) + atanT X Y) % 65536 = 0 := by
  have h' : ¬(X = 0 ∧ -Y = 0) := by omega
  have hle := quadrant_le X.natAbs Y.natAbs
  obtain hX | hX := le_total 0 X <;> obtain hY | hY := le_total Y 0
  · rw [atanT_first h hX hY, atanT_fourth h' hX (by omega), Int.natAbs_neg]
    omega
  · rw [atanT_fourth h hX hY, atanT_first h' hX (by omega), Int.natAbs_neg]
    omega
  · rw [atanT_second h hX hY, atanT_third h' hX (by omega), Int.natAbs_neg]
    omega
  · rw [atanT_third h hX hY, atanT_second h' hX (by omega), Int.natAbs_neg]
    omega

theorem atanT_quarter_turn {X Y : Int} (h : ¬(X = 0 ∧ Y = 0)) :
    atanT Y (-X) = (atanT X Y + 16384) % 65536 := by
  have h' : ¬(Y = 0 ∧ -X = 0) := by omega
  have hle := quadrant_le X.natAbs Y.natAbs
  have hswap := quadrant_swap (natAbs_pos_or h)
  obtain hX | hX := le_total 0 X <;> obtain hY | hY := le_total Y 0
  · rw [atanT_first h hX hY, atanT_second h' hY (by omega), Int.natAbs_neg, hswap]
    omega
  · rw [atanT_fourth h hX hY, atanT_first h' hY (by omega), Int.natAbs_neg, hswap]
    omega
  · rw [atanT_second h hX hY, atanT_third h' hY (by omega), Int.natAbs_neg, hswap]
    omega
  · rw [atanT_third h hX hY, atanT_fourth h' hY (by omega), Int.natAbs_neg, hswap]
    omega

theorem atanT_scale {X Y k : Int} (h : ¬(X = 0 ∧ Y = 0)) (hk : 1 ≤ k) :
    atanT (k * X) (k * Y) = atanT X Y := by
  have hk0 : 0 ≤ k := by omega
  have h' : ¬(k * X = 0 ∧ k * Y = 0) := fun ⟨hx, hy⟩ =>
    h ⟨(mul_eq_zero.mp hx).resolve_left (by omega), (mul_eq_zero.mp hy).resolve_left (by omega)⟩
  have hquad : quadrant (k * X).natAbs (k * Y).natAbs = quadrant X.natAbs Y.natAbs := by
    rw [Int.natAbs_mul, Int.natAbs_mul, quadrant_scale (natAbs_pos_or h) (by omega)]
  have hpos {Z : Int} (hZ : 0 ≤ Z) : 0 ≤ k * Z := mul_nonneg hk0 hZ
  have hneg {Z : Int} (hZ : Z ≤ 0) : k * Z ≤ 0 := mul_nonpos_of_nonneg_of_nonpos hk0 hZ
  obtain hX | hX := le_total 0 X <;> obtain hY | hY := le_total Y 0
  · rw [atanT_first h hX hY, atanT_first h' (hpos hX) (hneg hY), hquad]
  · rw [atanT_fourth h hX hY, atanT_fourth h' (hpos hX) (hpos hY), hquad]
  · rw [atanT_second h hX hY, atanT_second h' (hneg hX) (hneg hY), hquad]
  · rw [atanT_third h hX hY, atanT_third h' (hneg hX) (hpos hY), hquad]

/-- Settles O42. -/
theorem arctangentSymmetries : Obligations.ArctangentSymmetries := fun X Y h =>
  ⟨Nat.le_of_lt_succ (atanT_lt X Y), atanT_opposite h, atanT_quarter_turn h, atanT_mirror h,
    fun _ hk => atanT_scale h hk⟩

/-- Settles O43: in the first quadrant the angle is that of `quadrant`, which does not fall. -/
theorem arctangentIsMonotone : Obligations.ArctangentIsMonotone := by
  intro X Y X' Y' hX hY hX' hY' h' hcross
  have h : ¬(X = 0 ∧ Y = 0) := by omega
  rw [atanT_first h hX.le hY, atanT_first h' hX' hY']
  refine quadrant_mono (natAbs_pos_or h) (natAbs_pos_or h') ?_
  zify
  rwa [abs_of_nonpos hY, abs_of_nonneg hX', abs_of_nonpos hY', abs_of_pos hX]

/-! ## The table of R126 -/

theorem atanT_pos_x_axis {X : Int} (h : 0 < X) : atanT X 0 = 0 := by
  rw [atanT_first (by omega) h.le le_rfl, Int.natAbs_zero, quadrant_zero_right]

theorem atanT_diagonal {X : Int} (h : 0 < X) : atanT X (-X) = 0x2000 := by
  rw [atanT_first (by omega) h.le (by omega), Int.natAbs_neg, quadrant_self (by omega)]

/-- The other axes and diagonals are quarter turns of these. -/
theorem atanT_axes_and_diagonals {X : Int} (h : 0 < X) :
    atanT 0 (-X) = 0x4000 ∧ atanT (-X) 0 = 0x8000 ∧ atanT 0 X = 0xC000
      ∧ atanT (-X) (-X) = 0x6000 ∧ atanT (-X) X = 0xA000 ∧ atanT X X = 0xE000 := by
  have haxis := atanT_pos_x_axis h
  have hdiag := atanT_diagonal h
  have hup := atanT_quarter_turn (X := X) (Y := 0) (by omega)
  have hleft := atanT_opposite (X := X) (Y := 0) (by omega)
  have hdown := atanT_opposite (X := 0) (Y := -X) (by omega)
  have hupLeft := atanT_quarter_turn (X := X) (Y := -X) (by omega)
  have hdownLeft := atanT_opposite (X := X) (Y := -X) (by omega)
  have hdownRight := atanT_opposite (X := -X) (Y := -X) (by omega)
  simp only [neg_neg, neg_zero] at *
  omega

theorem atanT_beside_axis : atanT 0x10000 1 = 0 ∧ atanT 0x10000 (-1) = 0 := by decide +kernel

theorem atanT_corner : atanT 2147483647 (-2147483648) = 0x2000 := by decide +kernel

/-- Settles O41. -/
theorem atan2AxesAndDiagonals : Obligations.Atan2AxesAndDiagonals := by
  intro rd ra rb s
  refine ⟨encodedAs_of_row (o := .atan2) (by decide) rfl, _, exec_atan2 rd ra rb s,
    regEffect_setX rd _ s, ?_⟩
  rw [getX_setX_same, s32, s32]
  generalize (s.getX ra).toInt = X
  generalize (s.getX rb).toInt = Y
  refine ⟨?range, ?_⟩
  case range =>
    have hlt := atanT_lt X Y
    rw [BitVec.toNat_ofNat]
    omega
  have hvalue {n : Nat} (h : atanT X Y = n) : BitVec.ofNat 32 (atanT X Y) = BitVec.ofNat 32 n := by
    rw [h]
  have haxes {Z : Int} (h : 0 < Z) := atanT_axes_and_diagonals h
  refine ⟨?_, ?_, ?_, ?_, ?_, ?_, ?_, ?_, ?_, ?_, ?_, ?_⟩
  · rintro rfl rfl
    exact hvalue atanT_origin
  · rintro hX rfl
    exact hvalue (atanT_pos_x_axis hX)
  · rintro rfl hY
    obtain ⟨hup, -⟩ := haxes (Z := -Y) (by omega)
    exact hvalue (by rwa [neg_neg] at hup)
  · rintro hX rfl
    obtain ⟨-, hleft, -⟩ := haxes (Z := -X) (by omega)
    exact hvalue (by rwa [neg_neg] at hleft)
  · rintro rfl hY
    obtain ⟨-, -, hdown, -⟩ := haxes hY
    exact hvalue hdown
  · rintro hX rfl
    exact hvalue (atanT_diagonal hX)
  · rintro hX rfl
    obtain ⟨-, -, -, hupLeft, -⟩ := haxes (Z := -Y) (by omega)
    exact hvalue (by rwa [neg_neg] at hupLeft)
  · rintro hX rfl
    obtain ⟨-, -, -, -, hdownLeft, -⟩ := haxes (Z := -X) (by omega)
    exact hvalue (by rwa [neg_neg] at hdownLeft)
  · rintro hX rfl
    obtain ⟨-, -, -, -, -, hdownRight⟩ := haxes hX
    exact hvalue hdownRight
  · rintro rfl rfl
    exact hvalue atanT_beside_axis.1
  · rintro rfl rfl
    exact hvalue atanT_beside_axis.2
  · rintro rfl rfl
    exact hvalue atanT_corner

end Sys2Proof.Machine

/-! PROOFS. `ATAN2` is the correctly rounded angle (43_trig.md R125). The model compares a direction with
a boundary at 128 fraction bits; that is the real comparison, because no ratio of numbers up to `2^31`
comes near the tangent of a boundary. Euclid's algorithm on the sine and cosine of each boundary
shows it. -/

namespace Sys2Proof.Machine

open Real

/-! ## Ratios near a given ratio -/

/-- Euclid's algorithm on `(a, b)`, with the denominators `(x, y)` of the convergents of `b / a`: whether a
remainder above `margin` is left when the denominators exceed `limit`. -/
def noNearRatio (margin limit : Nat) : (fuel a b x y : Nat) → Bool
  | 0, _, _, _, _ => false
  | fuel + 1, a, b, x, y =>
    (Nat.blt limit y && Nat.blt margin a)
      || noNearRatio margin limit fuel b (a % b) y (x + a / b * y)

/-- Two consecutive remainders of opposite sign: no combination of denominators up to the limit gives
less than the greater remainder. -/
theorem abs_combination_ge {a b x y u v limit : Int} (ha : 0 ≤ a) (hb : 0 ≤ b) (hx : 0 ≤ x)
    (hlimit : limit < y) (hpos : 0 < u * x + v * y) (hle : u * x + v * y ≤ limit) :
    a ≤ |u * a - v * b| := by
  have hy : 0 < y := by linarith
  obtain hu | rfl | hu := lt_trichotomy u 0
  · have hv : 0 < v := by nlinarith
    exact le_abs.mpr (.inr (by nlinarith))
  · have hv : 0 < v := by nlinarith
    nlinarith
  · have hv : v ≤ 0 := by
      by_contra! hv
      nlinarith
    exact le_abs.mpr (.inl (by nlinarith))

theorem noNearRatio_sound {margin limit fuel a b x y : Nat}
    (h : noNearRatio margin limit fuel a b x y = true) {u v : Int} (hpos : 0 < u * x + v * y)
    (hle : u * x + v * y ≤ limit) : margin < |u * a - v * b| := by
  induction fuel generalizing a b x y u v with
  | zero => exact absurd h Bool.false_ne_true
  | succ fuel ih =>
    rw [noNearRatio, Bool.or_eq_true, Bool.and_eq_true, Nat.blt_eq, Nat.blt_eq] at h
    obtain ⟨hlimit, hmargin⟩ | hrest := h
    · exact lt_of_lt_of_le (by exact_mod_cast hmargin) (abs_combination_ge (by positivity)
        (by positivity) (by positivity) (by exact_mod_cast hlimit) hpos hle)
    · have hdiv : (a : Int) = b * (a / b : Nat) + (a % b : Nat) := by
        exact_mod_cast (Nat.div_add_mod a b).symm
      have hden : (v - u * (a / b : Nat)) * y + u * (x + a / b * y : Nat) = u * x + v * y := by
        push_cast
        ring
      have hform : (v - u * (a / b : Nat)) * b - u * (a % b : Nat) = -(u * a - v * b) := by
        linear_combination u * hdiv
      have hrec := ih hrest (by rwa [hden]) (by rwa [hden])
      rwa [hform, abs_neg] at hrec

/-! ## Comparing with a boundary -/

/-- The angle between results `k - 1` and `k`. -/
noncomputable def boundary (k : Nat) : ℝ := (2 * k - 1) * π / 2 ^ 16

/-- No ratio of numbers up to `2^31` comes near `s / c`. -/
def clearOfRatios (s c : Nat) : Bool := noNearRatio (2 ^ 60) (2 ^ 31) 64 c s 0 1

/-- The 8192 boundaries of the first octant, checked. -/
theorem octantWalk_clearOfRatios : octantWalk clearOfRatios 1 8192 = true := by decide +kernel

theorem boundary_clearOfRatios {k : Nat} (hpos : 0 < k) (hk : k ≤ 8192) :
    ∃ s c, NearCircle (2 ^ 27) (boundary k) s c ∧ clearOfRatios s c = true := by
  have h := octantWalk_sound octantWalk_clearOfRatios (by norm_num) (by norm_num)
    (by omega : k - 1 < 8192)
  rwa [boundary, show (2 * k - 1 : ℝ) = (1 + 2 * (k - 1) : Nat) by
    rw [Nat.cast_add, Nat.cast_mul, Nat.cast_sub hpos]; push_cast; ring]

/-- The side of a boundary on which a direction lies, with the error of approximate coordinates. -/
theorem side_near {p q S C σ γ e : ℝ} (hp : 0 ≤ p) (hp' : p ≤ 2 ^ 31) (hq : 0 ≤ q) (hq' : q ≤ 2 ^ 31)
    (hS : |S - 2 ^ 128 * σ| ≤ e) (hC : |C - 2 ^ 128 * γ| ≤ e) :
    |(q * C - p * S) - 2 ^ 128 * (q * γ - p * σ)| ≤ 2 ^ 32 * e :=
  calc |(q * C - p * S) - 2 ^ 128 * (q * γ - p * σ)|
      = |q * (C - 2 ^ 128 * γ) - p * (S - 2 ^ 128 * σ)| := by ring_nf
    _ ≤ |q * (C - 2 ^ 128 * γ)| + |p * (S - 2 ^ 128 * σ)| := abs_sub _ _
    _ ≤ 2 ^ 31 * e + 2 ^ 31 * e := by
      rw [abs_mul, abs_mul, abs_of_nonneg hp, abs_of_nonneg hq]
      gcongr
    _ = 2 ^ 32 * e := by ring

/-- The model's comparison with a boundary is the real one, and no direction of two operands lies on a
boundary. -/
theorem pastBoundary_iff_real {p q k : Nat} (hp : 0 < p) (hp' : p ≤ 2 ^ 31) (hq : q ≤ 2 ^ 31)
    (hpos : 0 < k) (hk : k ≤ 8192) :
    (pastBoundary p q k = true ↔ 0 < q * cos (boundary k) - p * sin (boundary k))
      ∧ q * cos (boundary k) - p * sin (boundary k) ≠ 0 := by
  have hpR : (p : ℝ) ≤ 2 ^ 31 := by exact_mod_cast hp'
  have hqR : (q : ℝ) ≤ 2 ^ 31 := by exact_mod_cast hq
  obtain ⟨s, c, hnear, hclear⟩ := boundary_clearOfRatios hpos hk
  have hmargin := noNearRatio_sound hclear (u := q) (v := p) (by push_cast; omega)
    (by push_cast; omega)
  have hmarginR : (2 : ℝ) ^ 60 < |(q * c - p * s : ℝ)| := by exact_mod_cast hmargin
  have hwalk := side_near (Nat.cast_nonneg p) hpR (Nat.cast_nonneg q) hqR
    hnear.sin_near hnear.cos_near
  have hangle : ((2 * k - 1 : Nat) : ℝ) * π / 2 ^ 16 = boundary k := by
    rw [boundary, Nat.cast_sub (by omega)]
    push_cast
    rfl
  have hmodel := side_near (Nat.cast_nonneg p) hpR (Nat.cast_nonneg q) hqR
    (hangle ▸ sinBoundary_near (by omega)) (hangle ▸ cosBoundary_near (j := 2 * k - 1) (by omega))
  have hsign : pastBoundary p q k = true ↔ (0 : ℝ) < q * sinBoundary (32768 - (2 * k - 1))
      - p * sinBoundary (2 * k - 1) := by
    rw [pastBoundary_iff, sub_pos]
    exact_mod_cast Iff.rfl
  rw [hsign]
  generalize (q * sinBoundary (32768 - (2 * k - 1)) - p * sinBoundary (2 * k - 1) : ℝ) = M at hmodel
  generalize (q * c - p * s : ℝ) = W at hmarginR hwalk
  generalize q * cos (boundary k) - p * sin (boundary k) = T at hmodel hwalk
  rw [abs_le] at hmodel hwalk
  obtain hW | hW := lt_abs.mp hmarginR
  · have hT : 0 < T := by linarith
    have hM : 0 < M := by linarith
    exact ⟨iff_of_true hM hT, hT.ne'⟩
  · have hT : T < 0 := by linarith
    have hM : M < 0 := by linarith
    exact ⟨iff_of_false hM.not_gt hT.not_gt, hT.ne⟩

/-! ## Polar angles -/

/-- The point `(x, y)`, not the origin, lies in direction `θ`. -/
def HasAngle (x y θ : ℝ) : Prop := ∃ r, 0 < r ∧ x = r * cos θ ∧ y = r * sin θ

theorem HasAngle.swap {x y θ : ℝ} : HasAngle x y θ → HasAngle y x (π / 2 - θ)
  | ⟨r, hr, hx, hy⟩ => ⟨r, hr, by rw [cos_pi_div_two_sub, hy], by rw [sin_pi_div_two_sub, hx]⟩

theorem HasAngle.neg_left {x y θ : ℝ} : HasAngle x y θ → HasAngle (-x) y (π - θ)
  | ⟨r, hr, hx, hy⟩ => ⟨r, hr, by rw [cos_pi_sub, hx, mul_neg], by rw [sin_pi_sub, hy]⟩

theorem HasAngle.neg_right {x y θ : ℝ} : HasAngle x y θ → HasAngle x (-y) (-θ)
  | ⟨r, hr, hx, hy⟩ => ⟨r, hr, by rw [cos_neg, hx], by rw [sin_neg, hy, mul_neg]⟩

theorem HasAngle.opposite {x y θ : ℝ} : HasAngle x y θ → HasAngle (-x) (-y) (θ + π)
  | ⟨r, hr, hx, hy⟩ => ⟨r, hr, by rw [cos_add_pi, hx, mul_neg], by rw [sin_add_pi, hy, mul_neg]⟩

theorem hasAngle_arctan {x : ℝ} (y : ℝ) (hx : 0 < x) : HasAngle x y (arctan (y / x)) := by
  have hcos := cos_arctan_pos (y / x)
  refine ⟨x / cos (arctan (y / x)), by positivity, (div_mul_cancel₀ _ hcos.ne').symm, ?_⟩
  rw [div_mul_eq_mul_div, mul_div_assoc, ← tan_eq_sin_div_cos, tan_arctan, mul_div_cancel₀ _ hx.ne']

/-- The argument of a point is its angle up to whole turns. -/
theorem HasAngle.arg_eq {x y θ : ℝ} (h : HasAngle x y θ) :
    ∃ m : Int, Complex.arg ⟨x, y⟩ = θ + 2 * π * m := by
  obtain ⟨r, hr, rfl, rfl⟩ := h
  have hpoint : (⟨r * cos θ, r * sin θ⟩ : ℂ)
      = r * (Real.Angle.cos (θ : Real.Angle) + Real.Angle.sin (θ : Real.Angle) * Complex.I) := by
    rw [Real.Angle.cos_coe, Real.Angle.sin_coe]
    apply Complex.ext <;>
      simp only [Complex.re_ofReal_mul, Complex.im_ofReal_mul, Complex.add_re, Complex.add_im,
        Complex.mul_I_re, Complex.mul_I_im, Complex.ofReal_re, Complex.ofReal_im] <;>
      ring
  have harg := Complex.arg_mul_cos_add_sin_mul_I_coe_angle hr (θ : Real.Angle)
  rw [← hpoint, Real.Angle.angle_eq_iff_two_pi_dvd_sub] at harg
  obtain ⟨m, hm⟩ := harg
  exact ⟨m, by linarith⟩

/-- A point lies past a boundary when its angle is greater. -/
theorem HasAngle.side_pos_iff {x y θ β : ℝ} (h : HasAngle x y θ) (hlo : -π < θ - β) (hhi : θ - β < π) :
    0 < y * cos β - x * sin β ↔ β < θ := by
  obtain ⟨r, hr, rfl, rfl⟩ := h
  rw [show r * sin θ * cos β - r * cos θ * sin β = r * sin (θ - β) by rw [sin_sub]; ring,
    mul_pos_iff_of_pos_left hr]
  constructor
  · intro hsin
    by_contra! hle
    exact hsin.not_ge (sin_nonpos_of_nonpos_of_neg_pi_le (by linarith) hlo.le)
  · exact fun hlt => sin_pos_of_pos_of_lt_pi (by linarith) hhi

theorem HasAngle.side_ne_zero_imp {x y θ β : ℝ} (h : HasAngle x y θ)
    (hne : y * cos β - x * sin β ≠ 0) : θ ≠ β := by
  obtain ⟨r, -, rfl, rfl⟩ := h
  rintro rfl
  exact hne (by ring)

/-! ## The rounded angle -/

/-- The octant search gives the rounded angle: the last boundary passed is below the angle, the next
one above it. -/
theorem octant_near {p q : Nat} (hp : 0 < p) (hp' : p ≤ 2 ^ 31) (hq : q ≤ p) :
    ∃ θ, HasAngle p q θ ∧ |2 ^ 15 * (θ / π) - octant p q| < 1 / 2 := by
  have hpR : (0 : ℝ) < p := by exact_mod_cast hp
  have hangle := hasAngle_arctan q hpR
  have hlo : 0 ≤ arctan ((q : ℝ) / p) := arctan_nonneg.mpr (by positivity)
  have hhi : arctan ((q : ℝ) / p) ≤ π / 4 := by
    rw [← arctan_one]
    exact arctan_strictMono.monotone ((div_le_one hpR).mpr (by exact_mod_cast hq))
  generalize arctan ((q : ℝ) / p) = θ at hangle hlo hhi
  refine ⟨θ, hangle, ?_⟩
  have hpi := pi_pos
  have hside {k : Nat} (hpos : 0 < k) (hk : k ≤ 8192) :
      (pastBoundary p q k = true ↔ boundary k < θ) ∧ θ ≠ boundary k := by
    have hk1 : (1 : ℝ) ≤ k := by exact_mod_cast hpos
    have hkR : (k : ℝ) ≤ 8192 := by exact_mod_cast hk
    have hb : 0 ≤ boundary k ∧ boundary k < π / 2 := by
      rw [boundary]
      constructor <;> nlinarith
    obtain ⟨hiff, hne⟩ := pastBoundary_iff_real hp hp' (hq.trans hp') hpos hk
    exact ⟨hiff.trans (hangle.side_pos_iff (by linarith) (by linarith)), hangle.side_ne_zero_imp hne⟩
  obtain ⟨hle, hpassed, hnext⟩ := octant_isLastPassed p q
  generalize octant p q = r at hle hpassed hnext
  have hturns (k : Nat) : 2 ^ 15 * (boundary k / π) = k - 1 / 2 := by
    rw [boundary]
    field_simp
  have hscale {a b : ℝ} (hab : a < b) : 2 ^ 15 * (a / π) < 2 ^ 15 * (b / π) := by gcongr
  rw [abs_lt]
  constructor
  · obtain rfl | hpos := Nat.eq_zero_or_pos r
    · have hnonneg : 0 ≤ 2 ^ 15 * (θ / π) := by positivity
      push_cast
      linarith
    · have hlt := hscale ((hside hpos hle).1.mp (hpassed.resolve_left hpos.ne'))
      rw [hturns] at hlt
      linarith
  · obtain hlast | hmore := hle.eq_or_lt
    · have hmax : 2 ^ 15 * (θ / π) ≤ 2 ^ 15 * (π / 4 / π) := by gcongr
      have hquarter : 2 ^ 15 * (π / 4 / π) = 8192 := by
        field_simp
        norm_num
      rw [hlast]
      push_cast
      linarith
    · obtain ⟨hiff, hne⟩ := hside r.succ_pos hmore
      have hnot : ¬ boundary (r + 1) < θ := by
        rw [← hiff, hnext hmore]
        exact Bool.false_ne_true
      have hlt := hscale (lt_of_le_of_ne (not_lt.mp hnot) hne)
      rw [hturns] at hlt
      push_cast at hlt
      linarith

theorem quadrant_near {a b : Nat} (h : 0 < a ∨ 0 < b) (ha : a ≤ 2 ^ 31) (hb : b ≤ 2 ^ 31) :
    ∃ θ, HasAngle a b θ ∧ |2 ^ 15 * (θ / π) - quadrant a b| < 1 / 2 := by
  obtain hle | hlt := le_or_gt b a
  · rw [quadrant_of_le hle]
    exact octant_near (by omega) ha hle
  · obtain ⟨θ, hangle, hnear⟩ := octant_near (by omega) hb hlt.le
    refine ⟨π / 2 - θ, hangle.swap, ?_⟩
    have hoct := octant_le b a
    have hturn : 2 ^ 15 * ((π / 2 - θ) / π) = 16384 - 2 ^ 15 * (θ / π) := by
      field_simp
      ring
    rw [quadrant_of_lt hlt, Nat.cast_sub (by omega), hturn, ← abs_neg]
    convert hnear using 2
    push_cast
    ring

/-- The direction `(X, -Y)` has an angle that rounds to `ATAN_T(X, Y)` up to whole turns. -/
theorem atanT_near {X Y : Int} (h : ¬(X = 0 ∧ Y = 0)) (hX : X.natAbs ≤ 2 ^ 31)
    (hY : Y.natAbs ≤ 2 ^ 31) :
    ∃ φ, HasAngle X (-Y) φ ∧ ∃ j : Int, |2 ^ 15 * (φ / π) - atanT X Y - 65536 * j| < 1 / 2 := by
  obtain ⟨θ, hangle, hnear⟩ := quadrant_near (natAbs_pos_or h) hX hY
  have hle := quadrant_le X.natAbs Y.natAbs
  have hpos {Z : Int} (hZ : 0 ≤ Z) : ((Z.natAbs : Nat) : ℝ) = Z := by
    rw [Nat.cast_natAbs, abs_of_nonneg hZ]
  have hneg {Z : Int} (hZ : Z ≤ 0) : ((Z.natAbs : Nat) : ℝ) = -Z := by
    rw [Nat.cast_natAbs, abs_of_nonpos hZ, Int.cast_neg]
  have hsub (ψ : ℝ) : 2 ^ 15 * ((ψ - θ) / π) = 2 ^ 15 * (ψ / π) - 2 ^ 15 * (θ / π) := by ring
  have hhalf : 2 ^ 15 * (π / π) = (32768 : ℝ) := by
    rw [div_self pi_ne_zero]
    norm_num
  obtain hX' | hX' := le_total 0 X <;> obtain hY' | hY' := le_total Y 0
  · rw [atanT_first h hX' hY']
    rw [hpos hX', hneg hY'] at hangle
    refine ⟨θ, hangle, 0, ?_⟩
    rwa [Int.cast_zero, mul_zero, sub_zero]
  · rw [atanT_fourth h hX' hY']
    rw [hpos hX', hpos hY'] at hangle
    generalize quadrant X.natAbs Y.natAbs = q at hnear hle ⊢
    obtain ⟨m, hm⟩ : ∃ m : Int, ((65536 - q) % 65536 : Nat) + 65536 * m = -(q : Int) :=
      ⟨-q / 65536, by omega⟩
    generalize (65536 - q) % 65536 = n at hm ⊢
    have hmod : (n : ℝ) + 65536 * m = -q := by exact_mod_cast hm
    refine ⟨-θ, hangle.neg_right, m, ?_⟩
    rw [sub_sub, hmod, ← zero_sub θ, hsub, zero_div, mul_zero, zero_sub, ← neg_sub', abs_neg]
    exact hnear
  · rw [atanT_second h hX' hY', Nat.cast_sub (by omega)]
    rw [hneg hX', hneg hY'] at hangle
    refine ⟨π - θ, by simpa only [neg_neg] using hangle.neg_left, 0, ?_⟩
    rw [hsub, hhalf, Int.cast_zero, mul_zero, sub_zero, Nat.cast_ofNat, sub_sub_sub_cancel_left,
      abs_sub_comm]
    exact hnear
  · rw [atanT_third h hX' hY', Nat.cast_add]
    rw [hneg hX', hpos hY'] at hangle
    refine ⟨θ + π, by simpa only [neg_neg] using hangle.opposite, 0, ?_⟩
    rw [add_div, mul_add, hhalf, Int.cast_zero, mul_zero, sub_zero, Nat.cast_ofNat, add_comm,
      add_sub_add_left_eq_sub]
    exact hnear

/-- Settles O44. -/
theorem atan2IsCorrectlyRounded : Obligations.Atan2IsCorrectlyRounded := by
  intro rd ra rb s h
  refine ⟨_, exec_atan2 rd ra rb s, ?_⟩
  have hbound (v : Word) : (s32 v).natAbs ≤ 2 ^ 31 := by
    have hlo := BitVec.le_toInt v
    have hhi := BitVec.toInt_lt (x := v)
    unfold s32
    omega
  have hne : ¬(s32 (s.getX ra) = 0 ∧ s32 (s.getX rb) = 0) := by
    rwa [s32_eq_zero_iff, s32_eq_zero_iff]
  obtain ⟨φ, hangle, j, hnear⟩ := atanT_near hne (hbound _) (hbound _)
  obtain ⟨m, hm⟩ := hangle.arg_eq
  have hlt := atanT_lt (s32 (s.getX ra)) (s32 (s.getX rb))
  rw [getX_setX_same, BitVec.toNat_ofNat, Nat.mod_eq_of_lt (by omega), ← s32, ← s32, hm]
  refine ⟨j + m, ?_⟩
  convert hnear using 2
  push_cast
  field_simp [pi_ne_zero]
  ring

end Sys2Proof.Machine

/-! PROOFS. The input latch (44_input_latch.md R141 to R150): `BSET`, the update of all slots, and the
queries, of which each is a predicate of one counter. The 32-bit counter folds back at the top so that
every predicate answers as for an unbounded count (R142). -/

namespace Sys2Proof.Machine

/-! ## The predicates of a counter -/

theorem pressedCount_iff (h : Word) : pressedCount h = true ↔ 0 < h.toNat := by
  simp only [pressedCount, decide_eq_true_eq]

theorem edgeCount_iff (h : Word) :
    edgeCount h = true ↔ h.toNat = 1 ∨ (15 < h.toNat ∧ h.toNat % 4 = 0) := by
  simp only [edgeCount, Bool.or_eq_true, Bool.and_eq_true, decide_eq_true_eq, beq_iff_eq]

theorem flagWord_eq_ite {b : Bool} {P : Prop} [Decidable P] (h : b = true ↔ P) :
    flagWord b = if P then 1 else 0 :=
  if_congr h rfl rfl

/-! ## One counter at `LUPD` -/

theorem toNat_incHeld (h : Word) :
    (incHeld h).toNat = if h.toNat < 0xFFFFFFFF then h.toNat + 1 else 0xFFFFFFFC := by
  have hlt := h.isLt
  by_cases htop : h = 0xFFFFFFFF
  · subst htop
    rfl
  · have hne : h.toNat ≠ 0xFFFFFFFF := fun e => htop (BitVec.eq_of_toNat_eq e)
    rw [incHeld, if_neg htop, if_pos (by omega), BitVec.toNat_add]
    exact Nat.mod_eq_of_lt (show h.toNat + 1 < 2 ^ 32 by omega)

theorem toNat_latchSlot (r : Bool) (h : Word) :
    (latchSlot r h).toNat = if r = true then
      (if h.toNat < 0xFFFFFFFF then h.toNat + 1 else 0xFFFFFFFC) else 0 := by
  cases r with
  | false => rfl
  | true => exact toNat_incHeld h

/-! ## The folded image of an unbounded count (R142) -/

theorem foldedCount_of_le {n : Nat} (h : n ≤ 0xFFFFFFFF) : foldedCount n = n := if_pos h

theorem foldedCount_of_gt {n : Nat} (h : 0xFFFFFFFF < n) : foldedCount n = 0xFFFFFFFC + n % 4 :=
  if_neg (by omega)

/-- Counting on and folding back commute. -/
theorem foldedCount_succ (n : Nat) : foldedCount (n + 1)
    = if foldedCount n < 0xFFFFFFFF then foldedCount n + 1 else 0xFFFFFFFC := by
  obtain hlt | rfl | hgt := Nat.lt_trichotomy n 0xFFFFFFFF
  · rw [foldedCount_of_le hlt.le, foldedCount_of_le hlt, if_pos hlt]
  · rfl
  · rw [foldedCount_of_gt hgt, foldedCount_of_gt (by omega)]
    split <;> omega

theorem foldedCount_pos_iff (n : Nat) : 0 < foldedCount n ↔ 0 < n := by
  obtain hle | hgt := le_or_gt n 0xFFFFFFFF
  · rw [foldedCount_of_le hle]
  · rw [foldedCount_of_gt hgt]
    omega

/-- The pressed edge looks at the count modulo 4 above 15, which folding back keeps. -/
theorem foldedCount_edge_iff (n : Nat) :
    (foldedCount n = 1 ∨ (15 < foldedCount n ∧ foldedCount n % 4 = 0))
      ↔ (n = 1 ∨ (15 < n ∧ n % 4 = 0)) := by
  obtain hle | hgt := le_or_gt n 0xFFFFFFFF
  · rw [foldedCount_of_le hle]
  · rw [foldedCount_of_gt hgt]
    omega

theorem toNat_latchSlot_folded {h : Word} {n : Nat} (hn : h.toNat = foldedCount n) (r : Bool) :
    (latchSlot r h).toNat = foldedCount (if r = true then n + 1 else 0) := by
  rw [toNat_latchSlot, hn, ← foldedCount_succ]
  cases r <;> rfl

/-! ## What a step does to the counters -/

/-- Of the outside actions only the reset input reaches `HELD`. -/
theorem external_held_of_ne_reset {e : External} (he : e ≠ .reset) (s : State) :
    (external e s).held = s.held := by
  cases e with
  | reset => exact absurd rfl he
  | vmWrite a b =>
    simp only [external]
    split <;> rfl
  | prevWrite k b => rfl
  | pixWrite k b => rfl

/-- `HELD` is written by `LUPD` and by the reset input alone. -/
theorem step_held_writers {s t : State} (h : step s = .next t) : t.held = s.held
    ∨ (∃ rest, s.port = .command (encode .lupd) :: rest)
    ∨ ∃ rest, s.port = .external .reset :: rest := by
  obtain ⟨-, rfl⟩ | ⟨e, rest, hp, rfl⟩ | ⟨w, e, rest, hp, hd, rfl⟩ | ⟨w, i, rest, hp, hd, hx⟩ :=
    step_cases h
  · exact .inl rfl
  · by_cases he : e = .reset
    · exact .inr (.inr ⟨rest, he ▸ hp⟩)
    · exact .inl (external_held_of_ne_reset he _)
  · exact .inl rfl
  · obtain ⟨-, hwriter, -⟩ := everyArrayHasItsWriters i _ t hx
    by_cases hheld : t.held = s.held
    · exact .inl hheld
    · refine .inr (.inl ⟨rest, ?_⟩)
      rw [hp, ← hwriter hheld, encode_of_decode hd]

/-- A step that runs `LUPD` puts into each slot what `latchSlot` says (R143). -/
theorem step_lupd {s : State} {rest : List HostAction}
    (hp : s.port = .command (encode .lupd) :: rest) : ∃ t, step s = .next t
      ∧ ∀ i, t.getHeld i = latchSlot (s.getRaw i) (s.getHeld i) := by
  obtain ⟨_, hexec, hheld⟩ := exec_lupd_held { s with port := rest }
  exact ⟨_, (step_command hp (decode_encode .lupd)).trans hexec, hheld⟩

/-! ## The commands -/

theorem execAll_singleton (i : Instr) (s : State) : execAll [i] s = exec i s := by
  cases h : exec i s <;> simp [execAll, h]

/-- Settles O45: `PRESS` and `RELEASE` are `BSET` alone. -/
theorem bsetWritesOneRawFlag : Obligations.BsetWritesOneRawFlag := fun slot v s =>
  ⟨encodedAs_of_row (o := .bset) (by decide) rfl,
    execAll_singleton (.bset slot v) s ▸ bset_effect slot v s⟩

/-- Settles O46: each slot by its counter. -/
theorem lupdUpdatesEverySlot : Obligations.LupdUpdatesEverySlot := by
  intro s
  obtain ⟨_, hexec, hheld⟩ := exec_lupd_held s
  refine ⟨encodedAs_of_row (o := .lupd) (by decide) rfl, _, hexec, fun i => ?counter,
    fun _ => rfl, fun c => readCsr_congr c rfl, fun _ => rfl, fun _ => rfl,
    ⟨fun _ => rfl, fun _ => rfl, fun _ => rfl⟩, rfl, rfl⟩
  case counter => rw [hheld, toNat_latchSlot]

/-- Settles O47. -/
theorem buttonQueryResults : Obligations.ButtonQueryResults := fun rd slot s =>
  ⟨encodedAs_and_regEffect (o := .btn) (by decide) rfl (exec_btn rd slot s)
      (flagWord_eq_ite (pressedCount_iff _)),
    encodedAs_and_regEffect (o := .btnp) (by decide) rfl (exec_btnp rd slot s)
      (flagWord_eq_ite (edgeCount_iff _)),
    encodedAs_and_regEffect (o := .held) (by decide) rfl (exec_held rd slot s) rfl⟩

/-- What a bulk query leaves, for any predicate of slots and what it says of slot `k` (R148, R149). -/
theorem slotMask_effect {i : Instr} {rd : Reg} {s : State} {q : Slot → Bool} {P : Nat → Prop}
    (hexec : exec i s = .next (s.setX rd (slotMask q)))
    (hq : ∀ k, q (BitVec.ofNat 6 k) = true ↔ P k) :
    ∃ t, exec i s = .next t ∧ RegEffect rd (t.getX rd) s t
      ∧ ∀ k, (t.getX rd).getLsbD k = true ↔ k < 16 ∧ P k := by
  refine ⟨_, hexec, ?_⟩
  rw [getX_setX_same]
  refine ⟨regEffect_setX rd _ s, fun k => ?_⟩
  rw [getLsbD_slotMask, Bool.and_eq_true, decide_eq_true_eq, hq]

/-- Settles O48. -/
theorem bulkMaskResults : Obligations.BulkMaskResults := fun rd s =>
  ⟨⟨encodedAs_of_row (o := .btnm) (by decide) rfl,
      slotMask_effect (exec_btnm rd s) fun _ => pressedCount_iff _⟩,
    encodedAs_of_row (o := .btnpm) (by decide) rfl,
      slotMask_effect (exec_btnpm rd s) fun _ => edgeCount_iff _⟩

/-- Settles O49: counting on commutes with folding back, nothing else writes `HELD`, and the
predicates of the queries do not see the fold. -/
theorem heldCounterIsExactForEver : Obligations.HeldCounterIsExactForEver := by
  intro s slot n hn
  refine ⟨fun rest hp => ?latched, fun rest hp => ⟨_, step_external hp, ?cleared⟩,
    fun t ht hlupd hreset => ?kept, fun rd => ?queries⟩
  case latched =>
    obtain ⟨t, hstep, hheld⟩ := step_lupd hp
    exact ⟨t, hstep, hheld slot ▸ toNat_latchSlot_folded hn _⟩
  case cleared =>
    obtain ⟨-, -, -, hheld, -⟩ := blockAtReset_resetBlock { s with port := rest }
    exact congrArg BitVec.toNat (hheld slot)
  case kept =>
    obtain hheld | ⟨rest, hp⟩ | ⟨rest, hp⟩ := step_held_writers ht
    · rw [State.getHeld, hheld, ← State.getHeld, hn]
    · exact absurd hp (hlupd rest)
    · exact absurd hp (hreset rest)
  case queries =>
    have hpressed : pressed s slot = true ↔ 0 < n := by
      rw [pressed, pressedCount_iff, hn, foldedCount_pos_iff]
    have hedge : pressedEdge s slot = true ↔ n = 1 ∨ (15 < n ∧ n % 4 = 0) := by
      rw [pressedEdge, edgeCount_iff, hn, foldedCount_edge_iff]
    refine ⟨⟨_, exec_btn rd slot s, ?_⟩, ⟨_, exec_btnp rd slot s, ?_⟩, _, exec_held rd slot s, ?_⟩
    all_goals rw [getX_setX_same]
    · exact flagWord_eq_ite hpressed
    · exact flagWord_eq_ite hedge
    · exact hn

end Sys2Proof.Machine

/-! PROOFS. The palette commands and the true-colour path (45_renderer.md R161 to R165): `RTRUE` writes
the bytes of its frame at rising addresses, one after the other. -/

namespace Sys2Proof.Machine

/-- Settles O51: only `SPALR` touches a register, only the other two touch the palette. -/
theorem paletteCommandResults : Obligations.PaletteCommandResults := by
  refine ⟨fun idx val s => ?spalw, fun rd idx s => ?spalr, fun s => ?palrst⟩
  case spalw =>
    exact ⟨encodedAs_of_row (o := .spalw) (by decide) rfl, _, exec_spalw idx val s,
      fun j => getSpal_setSpal s idx j val, fun _ => rfl, fun c => readCsr_congr c rfl, fun _ => rfl,
      fun _ => rfl, ⟨fun _ => rfl, fun _ => rfl, fun _ => rfl⟩, rfl, rfl⟩
  case spalr =>
    exact encodedAs_and_regEffect (o := .spalr) (by decide) rfl (exec_spalr rd idx s)
      (BitVec.ofNat_toNat 32 (s.getSpal idx)).symm
  case palrst =>
    exact ⟨encodedAs_of_row (o := .palrst) (by decide) rfl, _, exec_palrst s,
      palGet_identityPalette, fun _ => rfl, fun c => readCsr_congr c rfl, fun _ => rfl,
      fun _ => rfl, ⟨fun _ => rfl, fun _ => rfl, fun _ => rfl⟩, rfl, rfl⟩

/-! ## Bytes written at rising addresses -/

/-- What writing the bytes `bs` at the addresses from `a` on leaves: a canonical space in which they
stand from `a` on and every other byte is as it was. -/
theorem wf_and_read_foldl_write {m : Memory} (h : Memory.wf m = true) (a : Nat) (bs : List Byte) :
    let m' := ((List.range' a bs.length).zip bs).foldl (fun m w => Memory.write m w.1 w.2) m
    Memory.wf m' = true ∧ ∀ i, Memory.read m' i =
      if a ≤ i ∧ i < a + bs.length then bs.getD (i - a) Memory.blank else Memory.read m i := by
  induction bs generalizing m a with
  | nil => exact ⟨h, fun i => (if_neg (by simp)).symm⟩
  | cons b bs ih =>
    obtain ⟨hwf, hread⟩ := ih (Memory.wf_write h a b) (a + 1)
    refine ⟨hwf, fun i => (hread i).trans ?_⟩
    rw [Memory.read_write h, List.length_cons]
    rcases Nat.lt_trichotomy i a with hi | rfl | hi
    · rw [if_neg (by omega), if_neg (by omega), if_neg (by omega)]
    · rw [if_neg (by omega), if_pos rfl, if_pos (by omega), Nat.sub_self, List.getD_cons_zero]
    · rw [if_neg (Nat.ne_of_gt hi), show i - a = i - (a + 1) + 1 by omega, List.getD_cons_succ]
      exact if_congr (by omega) rfl rfl

/-- Writing the `n` bytes `bs` of a space of `n` bytes makes the space of these bytes, whatever it
held before. -/
theorem foldl_write_eq_ofBytes {m : Memory} (h : Memory.wf m = true) {bs : List Byte}
    (hbelow : Memory.below bs.length m = true) :
    ((List.range' 0 bs.length).zip bs).foldl (fun m w => Memory.write m w.1 w.2) m
      = Memory.ofBytes 0 bs := by
  obtain ⟨hwf, hread⟩ := wf_and_read_foldl_write h 0 bs
  refine Memory.ext_read hwf (Memory.wf_ofBytes bs) fun i => ?_
  rw [hread, Memory.read_ofBytes, if_pos (Nat.zero_le i)]
  by_cases hi : i < bs.length
  · rw [if_pos (by omega)]
  · rw [if_neg (by omega), Memory.read_of_below hbelow (by omega), Nat.sub_zero,
      List.getD_eq_default _ _ (by omega)]

/-- Blocks of six numbered bytes, one after the other, are all the bytes numbered through. -/
theorem flatMap_zip_six {f : Nat → List Byte} (hf : ∀ b, (f b).length = 6) (lo n : Nat) :
    (List.range' lo n).flatMap (fun b => (List.range' (6 * b) 6).zip (f b))
      = (List.range' (6 * lo) (6 * n)).zip ((List.range' lo n).flatMap f) := by
  induction n generalizing lo with
  | zero => rfl
  | succ n ih =>
    rw [List.range'_succ, List.flatMap_cons, List.flatMap_cons, ih,
      show 6 * (n + 1) = 6 + 6 * n by omega, ← List.range'_append_1,
      List.zip_append (by rw [List.length_range', hf])]
    rfl

/-- The writes of R165 are the bytes of the frame, each at its own place. -/
theorem rtrueWrites_eq_zip (s : State) : rtrueWrites s
    = (List.range' 0 49152).zip (framePixels Config.master s.spal s.readFb) := by
  rw [rtrueWrites, framePixels, List.range_eq_range']
  exact flatMap_zip_six (fun b => length_bytePixels Config.master s.spal (s.readFb b)) 0 8192

/-- Settles O53: the writes fill the whole of `PIX`, so nothing of what it held is left. -/
theorem rtrueIsItsSequenceOfWrites : Obligations.RtrueIsItsSequenceOfWrites := by
  intro s hwf hbelow
  obtain ⟨m, hexec, hm⟩ := exec_rtrue_pix s
  have hlen := length_framePixels Config.master s.spal s.readFb
  have hwrites := foldl_write_eq_ofBytes hwf (hlen ▸ hbelow)
  rw [hlen, ← rtrueWrites_eq_zip, ← hm] at hwrites
  rw [hexec, hwrites]

end Sys2Proof.Machine

/-! PROOFS. The terminal path (45_renderer.md R166 to R170): the cells of a row with their colour
escapes, the tokens of a frame, and what the two renderers read. -/

namespace Sys2Proof.Machine

/-! ## Cells (R167) -/

theorem cellOf_of_lt (term16 : BitVec 4 → BitVec 8) {top bottom : BitVec 4}
    (h : top.toNat < bottom.toNat) :
    cellOf term16 top bottom = ⟨term16 bottom, term16 top, .lower⟩ := if_pos h

theorem cellOf_of_not_lt (term16 : BitVec 4 → BitVec 8) {top bottom : BitVec 4}
    (h : ¬top.toNat < bottom.toNat) :
    cellOf term16 top bottom = ⟨term16 top, term16 bottom, .upper⟩ := if_neg h

/-- Settles O57: the two cases of R167. -/
theorem cellShowsBothHalves : Obligations.CellShowsBothHalves := by
  intro term16 top bottom
  by_cases h : top.toNat < bottom.toNat
  · rw [cellOf_of_lt term16 h]
    exact ⟨iff_of_true rfl h, nofun, fun _ => ⟨rfl, rfl⟩⟩
  · rw [cellOf_of_not_lt term16 h]
    exact ⟨iff_of_false nofun h, fun _ => ⟨rfl, rfl⟩, nofun⟩

/-- The cell the model draws is the one R167 names, part by part. -/
theorem cellAt_eq (s : State) (r x : Nat) : cellAt Config.term16 s.spal s.readFb r x
    = ⟨cellFg s r x, cellBg s r x, cellGlyph s r x⟩ := by
  rw [cellFg, cellBg, cellGlyph]
  by_cases h : (shownIndex s x (2 * r)).toNat < (shownIndex s x (2 * r + 1)).toNat
  · rw [if_pos h, if_pos h, if_pos h]
    exact cellOf_of_lt Config.term16 h
  · rw [if_neg h, if_neg h, if_neg h]
    exact cellOf_of_not_lt Config.term16 h

/-! ## Colour escapes (R169) -/

/-- The colour emitted last when column `x` is reached, `f` giving the colour of each column. -/
def lastColour (f : Nat → BitVec 8) : Nat → Option (BitVec 8)
  | 0 => none
  | x + 1 => some (f x)

theorem lastColour_succ (f : Nat → BitVec 8) (x : Nat) : lastColour f (x + 1) = some (f x) := rfl

/-- The tracker asks for an escape in column 0 and where the colour changes, and nowhere else. -/
theorem escape_eq (f : Nat → BitVec 8) (x : Nat) (ts : List Token) :
    (if some (f x) = lastColour f x then [] else ts)
      = if x = 0 ∨ f x ≠ f (x - 1) then ts else [] := by
  cases x with
  | zero => rw [if_neg nofun, if_pos (.inl rfl)]
  | succ x =>
    rw [lastColour_succ]
    by_cases h : f (x + 1) = f x
    · rw [if_pos (congrArg some h), if_neg (by simp [h])]
    · rw [if_neg fun e => h (Option.some.inj e), if_pos (.inr h)]

/-- The cells from column `x` on, drawn with the trackers as the columns before left them. -/
theorem cellTokens_range' (fg bg : Nat → BitVec 8) (glyph : Nat → Glyph) (x n : Nat) :
    cellTokens (lastColour fg x) (lastColour bg x)
        ((List.range' x n).map fun x => ⟨fg x, bg x, glyph x⟩)
      = (List.range' x n).flatMap fun x =>
        (if x = 0 ∨ fg x ≠ fg (x - 1) then [.fg (fg x)] else [])
          ++ (if x = 0 ∨ bg x ≠ bg (x - 1) then [.bg (bg x)] else []) ++ [.glyph (glyph x)] := by
  induction n generalizing x with
  | zero => rfl
  | succ n ih =>
    rw [List.range'_succ, List.map_cons, cellTokens_cons, List.flatMap_cons, ← ih, escape_eq,
      escape_eq, List.append_cons _ (Token.glyph _)]
    rfl

/-- An emitted row is the row of the spec. -/
theorem rowTokens_eq_specRow (s : State) (r : Fin 64) :
    rowTokens Config.term16 s.spal s.readFb r = specRow s r := by
  have hcells := funext (cellAt_eq s r)
  rw [rowTokens, specRow, hcells, List.range_eq_range']
  exact congrArg _ (cellTokens_range' (cellFg s r) (cellBg s r) (cellGlyph s r) 0 128)

/-! ## The tokens of a frame (R166, R168) -/

/-- The rows `RTEXT p` skips. -/
def skips (p : Bool) (s : State) (r : Fin 64) : Bool := p && rowSame s.readFb s.readPrev r

theorem skips_iff (p : Bool) (s : State) (r : Fin 64) :
    skips p s r = true ↔ p = true ∧ RowUnchanged s r := by
  rw [skips, Bool.and_eq_true, rowSame_iff, RowUnchanged]

/-- What `RTEXT p` makes of a row. -/
def frameRow (p : Bool) (s : State) (r : Fin 64) : List Token :=
  if skips p s r then [] else rowTokens Config.term16 s.spal s.readFb r

theorem frameRow_of_skips {p : Bool} {s : State} {r : Fin 64} (h : skips p s r = true) :
    frameRow p s r = [] := if_pos h

theorem frameRow_of_not_skips {p : Bool} {s : State} {r : Fin 64} (h : ¬skips p s r = true) :
    frameRow p s r = rowTokens Config.term16 s.spal s.readFb r := if_neg h

/-- What `RTEXT p` appends. -/
def appended (p : Bool) (s : State) : List Token := (List.finRange 64).flatMap (frameRow p s)

/-- `RTEXT` with its tokens under a name. -/
theorem exec_rtext_appended (p : Bool) (s : State) :
    exec (.rtext p) s = .next (s.emit (appended p s)) := exec_rtext p s

/-- Settles O54: each row is skipped by R168 or emitted as R167 and R169 say. -/
theorem rtextAppendsTheFrame : Obligations.RtextAppendsTheFrame := by
  intro p s
  refine ⟨encodedAs_of_row (o := .rtext) (by decide) rfl, _, frameRow p s, exec_rtext_appended p s,
    rfl, fun r hp hr => ?skipped, fun r hr => ?emitted, fun _ => rfl, fun c => readCsr_congr c rfl,
    fun _ => rfl, fun _ => rfl, fun _ => rfl, ⟨fun _ => rfl, fun _ => rfl, fun _ => rfl⟩, rfl⟩
  case skipped => exact frameRow_of_skips ((skips_iff p s r).mpr ⟨hp, hr⟩)
  case emitted =>
    have hskip : ¬skips p s r = true := fun h => hr ((skips_iff p s r).mp h)
    exact (frameRow_of_not_skips hskip).trans (rowTokens_eq_specRow s r)

/-! ## Counting tokens -/

/-- An escape, made or not, adds nothing to the count of another kind of token. -/
theorem countP_escape {q : Token → Bool} {t : Token} (ht : ¬q t = true) (c : Prop) [Decidable c] :
    (if c then [] else [t]).countP q = 0 := by
  split_ifs
  · rfl
  · rw [List.countP_cons_of_neg ht, List.countP_nil]

/-- Cells make no `ROW` token and one `GLYPH` token each. -/
theorem countP_cellTokens (lf lb : Option (BitVec 8)) (cs : List Cell) :
    (cellTokens lf lb cs).countP isRowToken = 0
      ∧ (cellTokens lf lb cs).countP isGlyphToken = cs.length := by
  induction cs generalizing lf lb with
  | nil => exact ⟨rfl, rfl⟩
  | cons c cs ih =>
    obtain ⟨hrow, hglyph⟩ := ih (some c.fg) (some c.bg)
    rw [cellTokens_cons]
    constructor
    · rw [List.countP_append, List.countP_append, countP_escape Bool.false_ne_true,
        countP_escape Bool.false_ne_true, List.countP_cons_of_neg Bool.false_ne_true, hrow]
    · rw [List.countP_append, List.countP_append, countP_escape Bool.false_ne_true,
        countP_escape Bool.false_ne_true, List.countP_cons_of_pos rfl, hglyph, List.length_cons,
        Nat.zero_add]

/-- An emitted row is one `ROW` token and 128 cells. -/
theorem countP_rowTokens (term16 : BitVec 4 → BitVec 8) (p : Vector (BitVec 4) 16) (fb : Nat → Byte)
    (r : Fin 64) : (rowTokens term16 p fb r).countP isRowToken = 1
      ∧ (rowTokens term16 p fb r).countP isGlyphToken = 128 := by
  obtain ⟨hrow, hglyph⟩ :=
    countP_cellTokens none none ((List.range 128).map (cellAt term16 p fb r.val))
  rw [rowTokens]
  exact ⟨by rw [List.countP_cons_of_pos rfl, hrow],
    by rw [List.countP_cons_of_neg Bool.false_ne_true, hglyph, List.length_map, List.length_range]⟩

/-- The tokens of a frame without skipped rows, counted row by row. -/
theorem countP_appended_false (s : State) {q : Token → Bool} {n : Nat}
    (h : ∀ r, (rowTokens Config.term16 s.spal s.readFb r).countP q = n) :
    (appended false s).countP q = 64 * n := by
  have hrows : List.countP q ∘ frameRow false s = Function.const _ n := funext h
  rw [appended, List.countP_flatMap, hrows, List.map_const, List.sum_replicate,
    List.length_finRange, smul_eq_mul]

/-- Settles O55. -/
theorem rtextTokenCounts : Obligations.RtextTokenCounts := fun s =>
  ⟨_, appended false s, exec_rtext_appended false s, rfl,
    countP_appended_false s fun r => (countP_rowTokens _ _ _ r).1,
    countP_appended_false s fun r => (countP_rowTokens _ _ _ r).2⟩

/-! ## Rows that are emitted (R168) -/

theorem row_mem_rowTokens_iff (term16 : BitVec 4 → BitVec 8) (p : Vector (BitVec 4) 16)
    (fb : Nat → Byte) (r r' : Fin 64) : .row r ∈ rowTokens term16 p fb r' ↔ r = r' := by
  have hcells : .row r ∉ cellTokens none none ((List.range 128).map (cellAt term16 p fb r'.val)) :=
    fun hmem => List.countP_eq_zero.mp (countP_cellTokens none none _).1 _ hmem rfl
  rw [rowTokens, List.mem_cons, or_iff_left hcells, Token.row.injEq]

theorem row_mem_appended_iff (p : Bool) (s : State) (r : Fin 64) :
    .row r ∈ appended p s ↔ ¬skips p s r = true := by
  rw [appended, List.mem_flatMap]
  constructor
  · rintro ⟨r', -, hmem⟩
    by_cases hskip : skips p s r' = true
    · rw [frameRow_of_skips hskip] at hmem
      cases hmem
    · rw [frameRow_of_not_skips hskip, row_mem_rowTokens_iff] at hmem
      exact hmem ▸ hskip
  · intro hskip
    exact ⟨r, List.mem_finRange r, by rw [frameRow_of_not_skips hskip, row_mem_rowTokens_iff]⟩

/-- Settles O56: a row is there unless it is skipped, and it is skipped if all its bytes agree. -/
theorem rtextElidesUnchangedRows : Obligations.RtextElidesUnchangedRows := by
  intro s
  refine ⟨_, appended true s, exec_rtext_appended true s, rfl, fun r => ?row, fun hsame => ?nothing⟩
  case row =>
    rw [row_mem_appended_iff, skips_iff]
    simp [RowUnchanged]
  case nothing =>
    refine List.flatMap_eq_nil_iff.mpr fun r _ => frameRow_of_skips ?_
    exact (skips_iff true s r).mpr ⟨rfl, fun j _ => hsame _ (by omega)⟩

/-! ## What the renderers read (R160, R170) -/

section Reads
variable {fb fb' : Nat → Byte} (h : ∀ i, i < 8192 → fb' i = fb i)
include h

theorem framePixels_congr (master : BitVec 4 → BitVec 24) (p : Vector (BitVec 4) 16) :
    framePixels master p fb' = framePixels master p fb :=
  List.flatMap_congr fun b hb => by rw [h b (List.mem_range.mp hb)]

theorem pixIdx_congr {x y : Nat} (hx : x < 128) (hy : y < 128) : pixIdx fb' x y = pixIdx fb x y := by
  rw [pixIdx, pixIdx, h (64 * y + x / 2) (by omega)]

theorem rowTokens_congr (term16 : BitVec 4 → BitVec 8) (p : Vector (BitVec 4) 16) (r : Fin 64) :
    rowTokens term16 p fb' r = rowTokens term16 p fb r := by
  have hcells : (List.range 128).map (cellAt term16 p fb' r)
      = (List.range 128).map (cellAt term16 p fb r) := by
    refine List.map_congr_left fun x hx => ?_
    have hx := List.mem_range.mp hx
    rw [cellAt, cellAt, pixIdx_congr h hx (by omega), pixIdx_congr h hx (by omega)]
  rw [rowTokens, rowTokens, hcells]

end Reads

/-- A row is skipped alike where the framebuffers agree, and the snapshots too if `P = 1`. -/
theorem skips_congr {p : Bool} {s s' : State} (hfb : ∀ i, i < 8192 → s'.readFb i = s.readFb i)
    (hprev : p = true → ∀ i, i < 8192 → s'.readPrev i = s.readPrev i) :
    skips p s' = skips p s := by
  funext r
  rw [Bool.eq_iff_iff, skips_iff, skips_iff]
  refine and_congr_right fun hp => forall₂_congr fun j hj => ?_
  rw [hfb _ (by omega), hprev hp _ (by omega)]

theorem appended_congr {p : Bool} {s s' : State} (hfb : ∀ i, i < 8192 → s'.readFb i = s.readFb i)
    (hspal : s'.spal = s.spal)
    (hprev : p = true → ∀ i, i < 8192 → s'.readPrev i = s.readPrev i) :
    appended p s' = appended p s := by
  refine List.flatMap_congr fun r _ => ?_
  rw [frameRow, frameRow, skips_congr hfb hprev, hspal, rowTokens_congr hfb]

/-- Settles O58: the frames of both paths are the same for the same inputs. -/
theorem renderersReadOnlyTheirInputs : Obligations.RenderersReadOnlyTheirInputs := by
  intro s s' hfb hspal
  refine ⟨?rtrue, fun p hprev => ?rtext⟩
  case rtrue =>
    obtain ⟨m, hexec, hm⟩ := exec_rtrue_pix s
    obtain ⟨m', hexec', hm'⟩ := exec_rtrue_pix s'
    refine ⟨_, _, hexec, hexec', ?_⟩
    rw [hm, hm', hspal, framePixels_congr hfb]
  case rtext =>
    refine ⟨_, _, appended p s, exec_rtext_appended p s, exec_rtext_appended p s', rfl, ?_⟩
    rw [← appended_congr hfb hspal hprev]
    rfl

end Sys2Proof.Machine

/-! PROOFS. No command and no step faults or is refused (60_exceptions.md R190). -/

namespace Sys2Proof.Machine

/-- Every command completes in every state (60_exceptions.md R190). -/
theorem exec_completes (i : Instr) (s : State) : ∃ t, exec i s = .next t := by
  induction i using instr_cases with
  | @writesValue i rd f hv => exact ⟨_, hv.exec_eq s⟩
  | csrr_unimplemented rd n hn => exact ⟨_, exec_csrr_unimplemented hn rd s⟩
  | csrw_unimplemented n ra hn => exact ⟨_, exec_csrw_unimplemented hn ra s⟩
  | csrw c ra => exact ⟨_, exec_csrw_number c ra s⟩
  | nop => exact ⟨_, exec_nop s⟩
  | x2f ra => exact ⟨_, exec_x2f ra s⟩
  | fclamp => exact ⟨_, exec_fclamp s⟩
  | bset slot v => exact ⟨_, exec_bset slot v s⟩
  | lupd => exact ⟨_, exec_lupd s⟩
  | spalw idx val => exact ⟨_, exec_spalw idx val s⟩
  | palrst => exact ⟨_, exec_palrst s⟩
  | rtrue => exact ⟨_, exec_rtrue s⟩
  | rtext p => exact ⟨_, exec_rtext p s⟩

/-- Settles O9, by what stands at the port: nothing, an outside action, a reserved word, a command. -/
theorem everyStepCompletes : Obligations.EveryStepCompletes := by
  intro s
  match hp : s.port with
  | [] => exact ⟨_, step_idle hp⟩
  | .external e :: rest => exact ⟨_, step_external hp⟩
  | .command w :: rest =>
    cases hd : decode w with
    | error e => exact ⟨_, step_reserved hp hd⟩
    | ok i =>
      rw [step_command hp hd]
      exact exec_completes i { s with port := rest }

end Sys2Proof.Machine

/-! PROOFS. What the block answers straight after reset (70_reset_and_hazards.md R211): every counter is
zero, so no query sees a button, `F` is +0.0, and the palette is the identity. -/

namespace Sys2Proof.Machine

/-- A command that puts `v` into `rd` has no other effect. -/
theorem exists_regEffect_of_exec {i : Instr} {s : State} {rd : Reg} {v v' : Word}
    (hexec : exec i s = .next (s.setX rd v)) (hv : v = v') :
    ∃ t, exec i s = .next t ∧ RegEffect rd v' s t :=
  ⟨_, hexec, hv ▸ regEffect_setX rd v s⟩

/-- The mask of a predicate that holds of no slot is zero (44_input_latch.md R148). -/
theorem slotMask_eq_zero {p : Slot → Bool} (hp : ∀ i, p i = false) : slotMask p = 0 := by
  refine BitVec.eq_of_getLsbD_eq fun k _ => ?_
  rw [getLsbD_slotMask, hp, Bool.and_false, BitVec.ofNat_eq_ofNat, BitVec.getLsbD_zero]

/-- `F2X` of +0.0 is zero, because +0.0 is the image of zero (41_fixed_conversion.md R92). -/
theorem toFixed_zero : toFixed 0 = 0 := toFixed_fromFixed 0

/-! ## The state at reset (R31) -/

namespace BlockAtReset

variable {s : State}

theorem pressed_eq_false (h : BlockAtReset s) (i : Slot) : pressed s i = false := by
  obtain ⟨-, -, -, hheld, -⟩ := h
  rw [pressed, hheld]
  rfl

theorem pressedEdge_eq_false (h : BlockAtReset s) (i : Slot) : pressedEdge s i = false := by
  obtain ⟨-, -, -, hheld, -⟩ := h
  rw [pressedEdge, hheld]
  rfl

/-- `FHI` and `FLO` are zero, so `F` is +0.0 (10_state.md R19). -/
theorem float_eq_zero (h : BlockAtReset s) : s.float = 0 := by
  obtain ⟨-, hcsr, -⟩ := h
  have hfhi : s.fhi = 0 := hcsr .fhi
  have hflo : s.flo = 0 := hcsr .flo
  rw [State.float, hfhi, hflo]
  rfl

end BlockAtReset

/-- Settles O13: each answer is what its command reads from the reset state; `RTRUE` is the painting
of every pixel (`rtruePaintsEveryPixel`) through the identity palette. -/
theorem queriesStraightAfterReset : Obligations.QueriesStraightAfterReset := by
  intro s h
  have ⟨_, _, _, hheld, hspal⟩ := h
  refine ⟨fun rd slot => ?btn, fun rd slot => ?btnp, fun rd => ?btnm, fun rd => ?btnpm,
    fun rd slot => ?held, fun rd => ?f2x, fun rd idx => ?spalr, ?rtrue⟩
  case btn =>
    exact exists_regEffect_of_exec (exec_btn rd slot s) (congrArg flagWord (h.pressed_eq_false slot))
  case btnp =>
    exact exists_regEffect_of_exec (exec_btnp rd slot s)
      (congrArg flagWord (h.pressedEdge_eq_false slot))
  case btnm =>
    exact exists_regEffect_of_exec (exec_btnm rd s) (slotMask_eq_zero h.pressed_eq_false)
  case btnpm =>
    exact exists_regEffect_of_exec (exec_btnpm rd s) (slotMask_eq_zero h.pressedEdge_eq_false)
  case held => exact exists_regEffect_of_exec (exec_held rd slot s) (hheld slot)
  case f2x =>
    exact exists_regEffect_of_exec (exec_f2x rd s) (h.float_eq_zero ▸ toFixed_zero)
  case spalr =>
    have hvalue : (s.getSpal idx).setWidth 32 = BitVec.ofNat 32 idx.toNat := by
      rw [hspal, BitVec.ofNat_toNat]
    exact exists_regEffect_of_exec (exec_spalr rd idx s) hvalue
  case rtrue =>
    obtain ⟨-, t, hexec, hpixels, -⟩ := rtruePaintsEveryPixel s
    refine ⟨t, hexec, fun x y hx hy => ?_⟩
    have hpixel := hpixels x y (Nat.le_of_lt_succ hx) (Nat.le_of_lt_succ hy)
    rwa [hspal] at hpixel

end Sys2Proof.Machine

/-! PROOFS. The invariant of the memory spaces (20_memory.md R40): each is canonical and inside its
bounds at reset, and every kind of step keeps it so. What an outside write does between commands
(R41, R42, R44, R45, R51), and that nothing happens while nothing is presented. -/

namespace Sys2Proof.Machine

/-! ## One space -/

/-- A space of `n` bytes as `State.Inv` asks for it: canonical, no address `n` or above. -/
def Memory.CanonicalBelow (n : Nat) (m : Memory) : Prop :=
  Memory.wf m = true ∧ Memory.below n m = true

namespace Memory.CanonicalBelow

theorem nil (n : Nat) : Memory.CanonicalBelow n [] := ⟨Memory.wf_nil, rfl⟩

theorem write {n a : Nat} {m : Memory} (h : Memory.CanonicalBelow n m) (ha : a < n) (b : Byte) :
    Memory.CanonicalBelow n (Memory.write m a b) :=
  ⟨Memory.wf_write h.1 a b, Memory.below_write h.2 ha b⟩

theorem ofBytes {n : Nat} {bs : List Byte} (h : bs.length ≤ n) :
    Memory.CanonicalBelow n (Memory.ofBytes 0 bs) :=
  ⟨Memory.wf_ofBytes bs, Memory.below_ofBytes ((Nat.zero_add _).trans_le h)⟩

end Memory.CanonicalBelow

/-! ## The invariant -/

/-- The invariant is a claim about each of the three spaces and about nothing else. -/
theorem inv_iff (s : State) : s.Inv ↔ Memory.CanonicalBelow Config.sizeMemory s.vm
    ∧ Memory.CanonicalBelow 8192 s.prev ∧ Memory.CanonicalBelow 49152 s.pix := Iff.rfl

/-- A state with the same three spaces has the invariant too. -/
theorem State.Inv.of_same_spaces {s t : State} (h : s.Inv) (hvm : t.vm = s.vm)
    (hprev : t.prev = s.prev) (hpix : t.pix = s.pix) : t.Inv := by
  rwa [inv_iff, hvm, hprev, hpix, ← inv_iff]

/-- A write of the VM address space replaces its bytes, by the same ones if the address is outside
(20_memory.md R42). -/
theorem external_vmWrite (a : Nat) (b : Byte) (s : State) : external (.vmWrite a b) s
    = { s with vm := if a < Config.sizeMemory then Memory.write s.vm a b else s.vm } := by
  by_cases ha : a < Config.sizeMemory
  · rw [external, if_pos ha, if_pos ha]
  · rw [external, if_neg ha, if_neg ha]

/-- An outside action writes inside the bounds of its space or not at all. -/
theorem external_keeps_inv (e : External) {s : State} (h : s.Inv) : (external e s).Inv := by
  obtain ⟨hvm, hprev, hpix⟩ := (inv_iff s).mp h
  cases e with
  | reset => exact h.of_same_spaces rfl rfl rfl
  | vmWrite a b =>
    rw [external_vmWrite]
    split
    · next ha => exact (inv_iff _).mpr ⟨hvm.write ha b, hprev, hpix⟩
    · exact h
  | prevWrite k b => exact (inv_iff _).mpr ⟨hvm, hprev.write k.isLt b, hpix⟩
  | pixWrite k b => exact (inv_iff _).mpr ⟨hvm, hprev, hpix.write k.isLt b⟩

/-- `RTRUE` fills `PIX` with the 49152 bytes of its frame (45_renderer.md R165). -/
theorem canonicalBelow_pix_of_rtrue {s t : State} (h : exec .rtrue s = .next t) :
    Memory.CanonicalBelow 49152 t.pix := by
  obtain ⟨m, hexec, hm⟩ := exec_rtrue_pix s
  cases hexec.symm.trans h
  change Memory.CanonicalBelow 49152 m
  rw [hm]
  exact .ofBytes (length_framePixels Config.master s.spal s.readFb).le

/-- No command writes the VM address space or `PREV`, and only `RTRUE` writes `PIX`
(`everyArrayHasItsWriters`). -/
theorem exec_keeps_inv {i : Instr} {s t : State} (hs : s.Inv) (h : exec i s = .next t) : t.Inv := by
  obtain ⟨-, -, -, hvm, hprev, -, hwriter, -⟩ := everyArrayHasItsWriters i s t h
  by_cases hpix : t.pix = s.pix
  · exact hs.of_same_spaces hvm hprev hpix
  · obtain ⟨hsvm, hsprev, -⟩ := (inv_iff s).mp hs
    have hrtrue : exec .rtrue s = .next t := hwriter hpix ▸ h
    exact (inv_iff t).mpr ⟨hvm ▸ hsvm, hprev ▸ hsprev, canonicalBelow_pix_of_rtrue hrtrue⟩

/-- Settles O10: the four kinds of step of `step_cases`. -/
theorem stepKeepsMemoryCanonical : Obligations.StepKeepsMemoryCanonical := by
  intro s t hs h
  have taken (rest : List HostAction) : State.Inv { s with port := rest } :=
    hs.of_same_spaces rfl rfl rfl
  obtain ⟨-, rfl⟩ | ⟨e, rest, -, rfl⟩ | ⟨w, e, rest, -, -, rfl⟩ | ⟨w, i, rest, -, -, hx⟩ :=
    step_cases h
  · exact hs
  · exact external_keeps_inv e (taken rest)
  · exact (taken rest).of_same_spaces (illegal_vm _) (illegal_prev _) (illegal_pix _)
  · exact exec_keeps_inv (taken rest) hx

/-- Settles O11: the spaces start blank (log 1). -/
theorem resetMemoryCanonical : Obligations.ResetMemoryCanonical :=
  (inv_iff State.reset).mpr ⟨.nil _, .nil _, .nil _⟩

/-! ## Outside writes and the idle block -/

/-- Other bytes in the three spaces and another port leave the block and the sink as they were. -/
theorem same_block_with_spaces (s : State) (vm prev pix : Memory) (rest : List HostAction) :
    let t := { s with vm := vm, prev := prev, pix := pix, port := rest }
    SameRegs s t ∧ SameCsrs s t ∧ SameRaw s t ∧ SameHeld s t ∧ SameSpal s t ∧ t.sink = s.sink
      ∧ t.port = rest :=
  ⟨fun _ => rfl, fun c => readCsr_congr c rfl, fun _ => rfl, fun _ => rfl, fun _ => rfl, rfl, rfl⟩

/-- A write that happens only on a condition, read back byte by byte. -/
theorem Memory.read_ite_write {m : Memory} (h : Memory.wf m = true) (p : Prop) [Decidable p]
    (a : Nat) (b : Byte) (i : Nat) : Memory.read (if p then Memory.write m a b else m) i
      = if i = a ∧ p then b else Memory.read m i := by
  by_cases hp : p
  · simp only [hp, if_true, and_true, Memory.read_write h]
  · simp only [hp, if_false, and_false]

/-- Settles O15: each outside write is a write of one canonical space (`Memory.read_write`), with the
block around it as it was. -/
theorem outsideWritesLandBetweenCommands : Obligations.OutsideWritesLandBetweenCommands := by
  intro s rest hs
  obtain ⟨⟨hvm, -⟩, ⟨hprev, -⟩, hpix, -⟩ := (inv_iff s).mp hs
  refine ⟨fun a b hp => ?vmWrite, fun k b hp => ?prevWrite, fun k b hp => ?pixWrite⟩
  case vmWrite =>
    have hstep := (step_external hp).trans (congrArg _ (external_vmWrite a b _))
    exact ⟨_, hstep, Memory.read_ite_write hvm _ a b, fun _ => rfl, fun _ => rfl,
      same_block_with_spaces s _ s.prev s.pix rest⟩
  case prevWrite =>
    exact ⟨_, step_external hp, Memory.read_write hprev k b, fun _ => rfl, fun _ => rfl,
      same_block_with_spaces s s.vm _ s.pix rest⟩
  case pixWrite =>
    exact ⟨_, step_external hp, Memory.read_write hpix k b, fun _ => rfl, fun _ => rfl,
      same_block_with_spaces s s.vm s.prev _ rest⟩

/-- Settles O14: an empty port is the idle block. -/
theorem idleBlockHoldsItsState : Obligations.IdleBlockHoldsItsState := fun _ hp => step_idle hp

end Sys2Proof.Machine
